-- ==== Sys2Proof/Word.lean ====
section
/-! DEFINITION. The word type of MCSM and the value sets the spec fixes by name (spec/00_scope.md R8, R9; spec/10_state.md R21). -/

namespace Sys2Proof

/-- Every unsigned quantity and every timestamp is a `W`-bit number, `W = 32` (00_scope.md R7, R9, D3; PRESUMED, safe
and unsafe sides in log 2). -/
abbrev Word := BitVec 32

/-- A motor phase, "identifier 0..2 (A, B, C)"; purely an index (10_state.md R21). -/
inductive Phase where
  | A
  | B
  | C
deriving DecidableEq, Repr, Inhabited

/-- The four input pins an `RDPIN` can name (20_memory.md R61 c, 30_encoding.md R87). -/
inductive Pin where
  | estop
  | fault
  | btnInc
  | btnDec
deriving DecidableEq, Repr, Inhabited

/-- The two button instances: 0 increases the speed, 1 decreases it (10_state.md R29, 20_memory.md R61 d). -/
inductive Button where
  | inc
  | dec
deriving DecidableEq, Repr, Inhabited

/-- The step selector `0..5` (10_state.md R25), bounded by construction as the source asks (20_memory.md R62, log 10). -/
abbrev StepIndex := Fin 6

/-- An array indexed by phase (10_state.md R40). -/
structure PerPhase (α : Type) where
  a : α
  b : α
  c : α
deriving DecidableEq, Repr, Inhabited

end Sys2Proof
end

