-- ==== Sys2Proof/Config.lean ====
section
/-! DEFINITION. What an implementation fixes (the hardwired parameters of spec/00_scope.md R7) and the free values: the
environment's draws (spec/20_memory.md R71) and the driver image the boot leaves (spec/10_state.md R40). -/

namespace Sys2Proof

/-- The hardwired control registers of MCSM (00_scope.md R7, 10_state.md R37). The thirteenth parameter, `W`, is the width
of `Word`. The spec gives none of them a value. -/
structure Config where
  maxDuty        : Word
  pwmFreq        : Word
  pwmInit        : Word
  deadTimeUs     : Word
  stepTimeInitMs : Word
  stepTimeMinMs  : Word
  stepTimeMaxMs  : Word
  stepTimeStepMs : Word
  debounceMs     : Word
  repeatMs       : Word
  pollMs         : Word
  faultPollMs    : Word
deriving DecidableEq, Repr, Inhabited

/-- The constraint column of 00_scope.md R7 (D27): the configurations the model's claims are about. -/
structure Config.Ok (c : Config) : Prop where
  pwmInit_le_maxDuty : c.pwmInit.toNat ≤ c.maxDuty.toNat
  min_le_init : c.stepTimeMinMs.toNat ≤ c.stepTimeInitMs.toNat
  init_le_max : c.stepTimeInitMs.toNat ≤ c.stepTimeMaxMs.toNat
  max_add_poll : c.stepTimeMaxMs.toNat + c.pollMs.toNat < 2 ^ 32
  poll_pos : 1 ≤ c.pollMs.toNat

/-- FREE VALUES (log 1): twelve numbers of which nothing is known. -/
opaque Config.anyValues : Config

/-- The record `r` brought inside the constraints of 00_scope.md R7; a record that meets them is left as it is, so that
every configuration of the spec is a value of this function. -/
def Config.withinConstraints (r : Config) : Config :=
  let poll : Nat := max 1 r.pollMs.toNat
  let hi : Nat := min r.stepTimeMaxMs.toNat (2 ^ 32 - 1 - poll)
  let lo : Nat := min r.stepTimeMinMs.toNat hi
  { r with
    pollMs := BitVec.ofNat 32 poll
    stepTimeMaxMs := BitVec.ofNat 32 hi
    stepTimeMinMs := BitVec.ofNat 32 lo
    stepTimeInitMs := BitVec.ofNat 32 (max lo (min r.stepTimeInitMs.toNat hi))
    pwmInit := BitVec.ofNat 32 (min r.pwmInit.toNat r.maxDuty.toNat) }

/-- The configuration of the machine: some record that meets 00_scope.md R7, and nothing more is known of it (log 1). -/
def Config.params : Config := Config.anyValues.withinConstraints

/-- FREE VALUE (log 3): the level the environment answers to the draw number `n`, asked of pin `p` (20_memory.md R71, U3). -/
opaque Config.freePin : Nat → Pin → Bool

/-- FREE VALUE (log 3): the clock reading the environment answers to the draw number `n` (20_memory.md R71, U4). -/
opaque Config.freeClock : Nat → Word

/-- FREE VALUES (log 4): the driver image the excluded pin initialisation left (10_state.md R40, U10). -/
opaque Config.bootHsOn : PerPhase Bool

/-- FREE VALUE (log 4): see `Config.bootHsOn`. -/
opaque Config.bootLsEn : PerPhase Bool

/-- FREE VALUE (log 4): see `Config.bootHsOn`. -/
opaque Config.bootLsDuty : PerPhase Word

end Sys2Proof
end

