-- ==== Sys2Proof/Syntax.lean ====
section
/-! DEFINITION. The whole syntax: one constructor per row of spec/opcode_table.json. Selectors that have reserved codes (a
phase, a step) stand here as the field of the word; Sys2Proof/WellFormed.lean says which values are legal. -/

namespace Sys2Proof

/-- The 19 micro-operations (30_encoding.md R84), the four engine requests (R85) and the six port commands (R88). -/
inductive Instr where
  -- SEQ
  | cs1
  | cs2
  | cs3
  | cs4
  | cs5
  | cs6
  | cs7
  | cs8
  | winit
  | wchk
  | wfault
  | winc
  | wdec
  | wsleep
  | adv
  | henter
  | hpoll
  | hsleep
  | hexit
  -- REQ
  | fchk
  | safeoff
  | commutate (step : BitVec 3) (dutyLevel : Word)
  | btnpoll (b : Button)
  -- CMD
  | seths (phase : BitVec 2) (on : Bool)
  | setls (phase : BitVec 2) (enabled : Bool) (duty : Word)
  | rdpin (pin : Pin)
  | rdtime
  | dlyms (n : Word)
  | dlyus (n : Word)
deriving DecidableEq, Repr

end Sys2Proof
end

