-- ==== Sys2Proof/WellFormed.lean ====
section
/-! DEFINITION. Which terms of the syntax are instructions of the spec: the selectors with reserved codes. -/

namespace Sys2Proof

/-- A phase selector is legal as `00`, `01`, `10` (30_encoding.md R81, R89). -/
def legalPhase (sel : BitVec 2) : Bool := sel != 3#2

/-- A step selector is legal as `000` to `101` (30_encoding.md R83, R86). -/
def legalStep (arg : BitVec 3) : Bool := decide (arg.toNat < 6)

/-- Every operand is a legal value of its field (30_encoding.md R86, R89). -/
def Instr.wellFormed : Instr → Bool
  | .cs1 => true
  | .cs2 => true
  | .cs3 => true
  | .cs4 => true
  | .cs5 => true
  | .cs6 => true
  | .cs7 => true
  | .cs8 => true
  | .winit => true
  | .wchk => true
  | .wfault => true
  | .winc => true
  | .wdec => true
  | .wsleep => true
  | .adv => true
  | .henter => true
  | .hpoll => true
  | .hsleep => true
  | .hexit => true
  | .fchk => true
  | .safeoff => true
  | .commutate step _ => legalStep step
  | .btnpoll _ => true
  | .seths phase _ => legalPhase phase
  | .setls phase _ _ => legalPhase phase
  | .rdpin _ => true
  | .rdtime => true
  | .dlyms _ => true
  | .dlyus _ => true

end Sys2Proof
end

