-- ==== Sys2Proof/Decode.lean ====
section
/-! DEFINITION. The three kinds of encoded word, the total decoder that refuses reserved words by name, and the encoder
(spec/30_encoding.md). MCSM has no bytes (spec/20_memory.md R60, R63): a word is a word. -/

namespace Sys2Proof

/-! ## Value encodings -/

/-- 30_encoding.md R81. -/
def Phase.code : Phase → BitVec 2
  | .A => 0b00#2
  | .B => 0b01#2
  | .C => 0b10#2

/-- The phase a 2-bit selector names; `11` is not a phase (30_encoding.md R81, R93). -/
def phaseOfCode (sel : BitVec 2) : Option Phase :=
  match sel.toNat with
  | 0 => some .A
  | 1 => some .B
  | 2 => some .C
  | _ => none

/-- `Option<Phase>` in 2 bits, `None` as `11` (30_encoding.md R82). -/
def optPhaseCode : Option Phase → BitVec 2
  | some p => p.code
  | none => 0b11#2

/-- The step selector in 3 bits (30_encoding.md R83). -/
def stepCode (i : StepIndex) : BitVec 3 := BitVec.ofNat 3 i.val

/-- The step a 3-bit selector names; `110` and `111` name none (30_encoding.md R83, R92). -/
def stepOfCode (arg : BitVec 3) : Option StepIndex :=
  if h : arg.toNat < 6 then some ⟨arg.toNat, h⟩ else none

/-- 30_encoding.md R87. -/
def Pin.code : Pin → BitVec 2
  | .estop => 0b00#2
  | .fault => 0b01#2
  | .btnInc => 0b10#2
  | .btnDec => 0b11#2

/-- All four codes are legal (30_encoding.md R89). -/
def pinOfCode (sel : BitVec 2) : Pin :=
  match sel.toNat with
  | 0 => .estop
  | 1 => .fault
  | 2 => .btnInc
  | _ => .btnDec

/-- 30_encoding.md R87. -/
def Button.code : Button → BitVec 1
  | .inc => 0b0#1
  | .dec => 0b1#1

/-- 30_encoding.md R86, R87. -/
def buttonOfCode (b : BitVec 1) : Button := if b == 0b1#1 then .dec else .inc

/-! ## Codes of the sequencer register `seq` (30_encoding.md R84) -/

namespace SeqCode

def CS1 : BitVec 5 := 0b00000#5
def CS2 : BitVec 5 := 0b00001#5
def CS3 : BitVec 5 := 0b00010#5
def CS4 : BitVec 5 := 0b00011#5
def CS5 : BitVec 5 := 0b00100#5
def CS6 : BitVec 5 := 0b00101#5
def CS7 : BitVec 5 := 0b00110#5
def CS8 : BitVec 5 := 0b00111#5
def WINIT : BitVec 5 := 0b01000#5
def WCHK : BitVec 5 := 0b01001#5
def WFAULT : BitVec 5 := 0b01010#5
def WINC : BitVec 5 := 0b01011#5
def WDEC : BitVec 5 := 0b01100#5
def WSLEEP : BitVec 5 := 0b01101#5
def ADV : BitVec 5 := 0b01110#5
def HENTER : BitVec 5 := 0b10000#5
def HPOLL : BitVec 5 := 0b10001#5
def HSLEEP : BitVec 5 := 0b10010#5
def HEXIT : BitVec 5 := 0b10011#5

end SeqCode

/-! ## Decoding -/

/-- An encoded word together with the place it is found at: the register `seq`, the internal request bus or the command
port. The place, never the bits, tells the three kinds apart (30_encoding.md R80). -/
inductive CodeWord where
  | seq (code : BitVec 5)
  | request (w : BitVec 37)
  | port (w : BitVec 38)
deriving DecidableEq, Repr

/-- The reserved words, by the kind they belong to (30_encoding.md R91, R92, R93). -/
inductive DecodeError where
  | reservedSeq (code : BitVec 5)
  | reservedRequest (w : BitVec 37)
  | reservedCommand (w : BitVec 38)
deriving DecidableEq, Repr

/-- 30_encoding.md R84, R91. -/
def decodeSeq (code : BitVec 5) : Except DecodeError Instr :=
  match code.toNat with
  | 0 => .ok .cs1
  | 1 => .ok .cs2
  | 2 => .ok .cs3
  | 3 => .ok .cs4
  | 4 => .ok .cs5
  | 5 => .ok .cs6
  | 6 => .ok .cs7
  | 7 => .ok .cs8
  | 8 => .ok .winit
  | 9 => .ok .wchk
  | 10 => .ok .wfault
  | 11 => .ok .winc
  | 12 => .ok .wdec
  | 13 => .ok .wsleep
  | 14 => .ok .adv
  | 16 => .ok .henter
  | 17 => .ok .hpoll
  | 18 => .ok .hsleep
  | 19 => .ok .hexit
  | _ => .error (.reservedSeq code)

/-- The fields of a request: `fn[36:35] ++ arg[34:32] ++ duty[31:0]` (30_encoding.md R85). -/
def reqFn (w : BitVec 37) : BitVec 2 := w.extractLsb' 35 2

/-- See `reqFn`. -/
def reqArg (w : BitVec 37) : BitVec 3 := w.extractLsb' 32 3

/-- See `reqFn`. -/
def reqDuty (w : BitVec 37) : Word := w.extractLsb' 0 32

/-- The request with these fields, read from a request word `w` (30_encoding.md R85, R86, R92). -/
def decodeReqFields (w : BitVec 37) (fn : BitVec 2) (arg : BitVec 3) (duty : Word) : Except DecodeError Instr :=
  match fn.toNat with
  | 0 => if arg = 0#3 ∧ duty = 0#32 then .ok .fchk else .error (.reservedRequest w)
  | 1 => if arg = 0#3 ∧ duty = 0#32 then .ok .safeoff else .error (.reservedRequest w)
  | 2 => if (stepOfCode arg).isSome then .ok (.commutate arg duty) else .error (.reservedRequest w)
  | _ =>
    if arg.extractLsb' 1 2 = 0#2 ∧ duty = 0#32 then .ok (.btnpoll (buttonOfCode (arg.extractLsb' 0 1)))
    else .error (.reservedRequest w)

/-- 30_encoding.md R85, R86, R92. -/
def decodeReq (w : BitVec 37) : Except DecodeError Instr := decodeReqFields w (reqFn w) (reqArg w) (reqDuty w)

/-- The fields of a command: `op[37:35] ++ sel[34:33] ++ flag[32] ++ val[31:0]` (30_encoding.md R88). -/
def cmdOp (w : BitVec 38) : BitVec 3 := w.extractLsb' 35 3

/-- See `cmdOp`. -/
def cmdSel (w : BitVec 38) : BitVec 2 := w.extractLsb' 33 2

/-- See `cmdOp`. -/
def cmdFlag (w : BitVec 38) : BitVec 1 := w.extractLsb' 32 1

/-- See `cmdOp`. -/
def cmdVal (w : BitVec 38) : Word := w.extractLsb' 0 32

/-- The command with these fields, read from a command word `w` (30_encoding.md R88, R89, R93). -/
def decodeCmdFields (w : BitVec 38) (op : BitVec 3) (sel : BitVec 2) (flag : BitVec 1) (val : Word) :
    Except DecodeError Instr :=
  match op.toNat with
  | 0 => if (phaseOfCode sel).isSome ∧ val = 0#32 then .ok (.seths sel (flag == 1#1)) else .error (.reservedCommand w)
  | 1 => if (phaseOfCode sel).isSome then .ok (.setls sel (flag == 1#1) val) else .error (.reservedCommand w)
  | 2 => if flag = 0#1 ∧ val = 0#32 then .ok (.rdpin (pinOfCode sel)) else .error (.reservedCommand w)
  | 3 => if sel = 0#2 ∧ flag = 0#1 ∧ val = 0#32 then .ok .rdtime else .error (.reservedCommand w)
  | 4 => if sel = 0#2 ∧ flag = 0#1 then .ok (.dlyms val) else .error (.reservedCommand w)
  | 5 => if sel = 0#2 ∧ flag = 0#1 then .ok (.dlyus val) else .error (.reservedCommand w)
  | _ => .error (.reservedCommand w)

/-- 30_encoding.md R88, R89, R93. -/
def decodeCmd (w : BitVec 38) : Except DecodeError Instr :=
  decodeCmdFields w (cmdOp w) (cmdSel w) (cmdFlag w) (cmdVal w)

/-- The decoder: total, and every reserved word is refused by name (30_encoding.md R80, R91, R92, R93). -/
def decode : CodeWord → Except DecodeError Instr
  | .seq code => decodeSeq code
  | .request w => decodeReq w
  | .port w => decodeCmd w

/-! ## Encoding -/

/-- 30_encoding.md R95: a boolean in one bit. -/
def boolCode (v : Bool) : BitVec 1 := if v then 0b1#1 else 0b0#1

/-- `fn ++ arg ++ duty` (30_encoding.md R85). -/
def reqWord (fn : BitVec 2) (arg : BitVec 3) (duty : Word) : BitVec 37 := fn ++ arg ++ duty

/-- `op ++ sel ++ flag ++ val` (30_encoding.md R88). -/
def cmdWord (op : BitVec 3) (sel : BitVec 2) (flag : BitVec 1) (val : Word) : BitVec 38 := op ++ sel ++ flag ++ val

/-- The word of an instruction (30_encoding.md R84, R85, R88). -/
def encode : Instr → CodeWord
  | .cs1 => .seq SeqCode.CS1
  | .cs2 => .seq SeqCode.CS2
  | .cs3 => .seq SeqCode.CS3
  | .cs4 => .seq SeqCode.CS4
  | .cs5 => .seq SeqCode.CS5
  | .cs6 => .seq SeqCode.CS6
  | .cs7 => .seq SeqCode.CS7
  | .cs8 => .seq SeqCode.CS8
  | .winit => .seq SeqCode.WINIT
  | .wchk => .seq SeqCode.WCHK
  | .wfault => .seq SeqCode.WFAULT
  | .winc => .seq SeqCode.WINC
  | .wdec => .seq SeqCode.WDEC
  | .wsleep => .seq SeqCode.WSLEEP
  | .adv => .seq SeqCode.ADV
  | .henter => .seq SeqCode.HENTER
  | .hpoll => .seq SeqCode.HPOLL
  | .hsleep => .seq SeqCode.HSLEEP
  | .hexit => .seq SeqCode.HEXIT
  | .fchk => .request (reqWord 0b00#2 0#3 0#32)
  | .safeoff => .request (reqWord 0b01#2 0#3 0#32)
  | .commutate step dutyLevel => .request (reqWord 0b10#2 step dutyLevel)
  | .btnpoll b => .request (reqWord 0b11#2 (0b00#2 ++ b.code) 0#32)
  | .seths phase on => .port (cmdWord 0b000#3 phase (boolCode on) 0#32)
  | .setls phase enabled duty => .port (cmdWord 0b001#3 phase (boolCode enabled) duty)
  | .rdpin pin => .port (cmdWord 0b010#3 pin.code 0#1 0#32)
  | .rdtime => .port (cmdWord 0b011#3 0#2 0#1 0#32)
  | .dlyms n => .port (cmdWord 0b100#3 0#2 0#1 n)
  | .dlyus n => .port (cmdWord 0b101#3 0#2 0#1 n)

/-! ## Words numbered as spec/opcode_table.json numbers them -/

/-- A command word when the number fits 38 bits and names a command. -/
def portWordOf (w : Nat) : Option CodeWord :=
  if w < 2 ^ 38 then
    match decodeCmd (BitVec.ofNat 38 w) with
    | .ok _ => some (.port (BitVec.ofNat 38 w))
    | .error _ => none
  else none

/-- A request word when the number fits 37 bits. -/
def requestWordOf (w : Nat) : Option CodeWord :=
  if w < 2 ^ 37 then some (.request (BitVec.ofNat 37 w)) else none

/-- The place and word of a table row's number (DESIGN CHOICE, log 7). Up to 8 bits it is a `seq` code; 37 bits a request;
38 bits a command. A count in whole bytes (40) does not say which of the two wide kinds is meant: the number is then a
command where it names one, and a request otherwise. -/
def tableCodeWord (nbits w : Nat) : Option CodeWord :=
  if nbits ≤ 8 then
    if w < 2 ^ 5 then some (.seq (BitVec.ofNat 5 w)) else none
  else if nbits = 37 then requestWordOf w
  else if nbits = 38 then
    if w < 2 ^ 38 then some (.port (BitVec.ofNat 38 w)) else none
  else
    match portWordOf w with
    | some c => some c
    | none => requestWordOf w

/-- The instruction the decoder reads from an opcode-table number (log 7). -/
def decodeTableWord (nbits w : Nat) : Option Instr :=
  match tableCodeWord nbits w with
  | none => none
  | some c =>
    match decode c with
    | .ok i => some i
    | .error _ => none

end Sys2Proof
end

