-- ==== Sys2Proof/Machine/State.lean ====
section
/-! DEFINITION. The state of MCSM (spec/10_state.md), the two observation devices beside it (R40, R41), the environment's
inputs (R43), and the state after reset (R45, spec/70_reset_and_hazards.md R250). Plain data throughout. -/

namespace Sys2Proof.Machine

/-- No step of MCSM ends in a machine fault: Fault, the one abnormal condition, is handled by a transition of `seq` and "is
never escalated to an error value, exception, or process exit" (60_exceptions.md R220, R224; 43_control_loop.md R184). The
type is empty: nothing raises it (safe: there is nothing to raise). -/
inductive Fault where
deriving DecidableEq, Repr

/-- A state or a word to which the spec gives no meaning (30_encoding.md R91 to R93, D23, log 11). All are safe: a model
that stops there proves nothing of the hardware. -/
inductive Refusal where
  /-- Raised by a refused arm of `exec` only: the instruction has no meaning yet. Safe. -/
  | notModelled (mnemonic : String)
  /-- Raised by `step` when `seq` holds a reserved code, whatever word waits (R64, R91). Safe. -/
  | reservedSeqCode (code : BitVec 5)
  /-- Raised by `step` when a reserved word waits on the request bus (R92). Safe. -/
  | reservedRequestWord (w : BitVec 37)
  /-- Raised by `step` when a reserved word waits on the command port (R93). Safe. -/
  | reservedCommandWord (w : BitVec 38)
  /-- Raised by COMMUTATE with a step selector 6 or 7 (R83, R92). Safe. -/
  | noSuchStep (arg : BitVec 3)
  /-- Raised by SETHS and SETLS with the phase selector `11` (R81, R93). Safe. -/
  | noSuchPhase (sel : BitVec 2)
  /-- Raised by SETLS taken from the command port with a duty above `MAX_DUTY` (R93, R202, 93_implementation_defined.md U11,
  log 12). Safe. -/
  | dutyAboveMax (duty : Word)
deriving DecidableEq, Repr

/-- One port event of `trace` (10_state.md R41); a read carries its answer. -/
inductive Event where
  | setHs (p : Phase) (on : Bool)
  | setLs (p : Phase) (en : Bool) (duty : Word)
  | rdPin (pin : Pin) (v : Bool)
  | rdTime (t : Word)
  | dlyMs (n : Word)
  | dlyUs (n : Word)
deriving DecidableEq, Repr

/-- The reference image of the excluded Phase Output Driver (10_state.md R40): for every phase, high side driven, low-side
PWM enabled, low-side duty. -/
structure DriverImage where
  hsOn   : PerPhase Bool
  lsEn   : PerPhase Bool
  lsDuty : PerPhase Word
deriving DecidableEq, Repr

/-- All six switches off, all duties 0 (70_reset_and_hazards.md R253 c). -/
def DriverImage.allOff : DriverImage where
  hsOn := ⟨false, false, false⟩
  lsEn := ⟨false, false, false⟩
  lsDuty := ⟨0#32, 0#32, 0#32⟩

/-- The image the boot leaves: free values (10_state.md R40, U10, log 4). -/
def DriverImage.boot : DriverImage where
  hsOn := Config.bootHsOn
  lsEn := Config.bootLsEn
  lsDuty := Config.bootLsDuty

/-- 10_state.md R23 to R28. -/
structure MotorState where
  currentHighSide : Option Phase
  currentLowSide  : Option Phase
  stepIndex       : StepIndex
  pwmLevel        : Word
  stepPeriodMs    : Word
deriving DecidableEq, Repr

/-- One button's debounce record (10_state.md R29 to R33, R35). `stableState` is true when released. The constant `pin` of
R30 is the function `Button.pin` (log 20). -/
structure ButtonInput where
  stableState    : Bool
  trans          : Bool
  lastChangeTime : Word
  lastEventTime  : Word
deriving DecidableEq, Repr

/-- MODEL'S OWN (log 3, log 9): the inputs of 10_state.md R43. A read takes the oldest answer the environment has ready; when
there is none, the answer is the free value number `draws`. `rst` is a reset request the next step serves. -/
structure Environment where
  pinSamples    : List Bool
  clockReadings : List Word
  draws         : Nat
  rst           : Bool
deriving DecidableEq, Repr

/-- The answer of a port command (30_encoding.md R90). -/
inductive Response where
  | bit (v : Bool)
  | word (t : Word)
deriving DecidableEq, Repr

/-- MODEL'S OWN (log 5, log 6): a word waiting on the internal request bus or on the command port (30_encoding.md R80, R85,
R88), and the answer of the last one taken from each (R85, R86, R90). -/
structure Bus where
  req       : Option (BitVec 37)
  cmd       : Option (BitVec 38)
  reqAnswer : Option Bool
  cmdAnswer : Option Response
deriving DecidableEq, Repr

/-- The whole state: 10_state.md R20 (`motor`, two buttons, `seq`, `elapsed`), the hardwired parameters of R37 (`config`, never
written, log 1), the two observation devices of R40 and R41, and the model's own inputs and bus lines. -/
structure State where
  motor   : MotorState
  btnInc  : ButtonInput
  btnDec  : ButtonInput
  seq     : BitVec 5
  elapsed : Word
  config  : Config
  driver  : DriverImage
  trace   : List Event
  env     : Environment
  bus     : Bus
deriving DecidableEq, Repr

/-- A button record at reset (10_state.md R45, D19, log 15). -/
def ButtonInput.atReset : ButtonInput where
  stableState := true
  trans := false
  lastChangeTime := 0#32
  lastEventTime := 0#32

/-- Nothing waits on the bus or the port, and nothing was answered. -/
def Bus.idle : Bus where
  req := none
  cmd := none
  reqAnswer := none
  cmdAnswer := none

/-- An environment that has no answer ready and asks for no reset (log 3, log 9). -/
def Environment.fresh : Environment where
  pinSamples := []
  clockReadings := []
  draws := 0
  rst := false

/-- The state after reset of a machine with parameters `c`, in front of the driver image `image` and the environment `env`:
the values of 10_state.md R45. Reset sets neither the parameters nor the image (R37, R40, R250). -/
def State.atReset (c : Config) (image : DriverImage) (env : Environment) : State where
  motor :=
    { currentHighSide := none
      currentLowSide := none
      stepIndex := 0
      pwmLevel := c.pwmInit
      stepPeriodMs := c.stepTimeInitMs }
  btnInc := ButtonInput.atReset
  btnDec := ButtonInput.atReset
  seq := SeqCode.CS1
  elapsed := 0#32
  config := c
  driver := image
  trace := []
  env := env
  bus := Bus.idle

/-- The machine right after reset (10_state.md R45): its parameters and its driver image are free values. -/
def State.reset : State := State.atReset Config.params DriverImage.boot Environment.fresh

/-! ## Updates of one field -/

def State.setHighSide (o : Option Phase) (s : State) : State := { s with motor := { s.motor with currentHighSide := o } }

def State.setLowSide (o : Option Phase) (s : State) : State := { s with motor := { s.motor with currentLowSide := o } }

def State.setStepIndex (i : StepIndex) (s : State) : State := { s with motor := { s.motor with stepIndex := i } }

def State.setStepPeriod (w : Word) (s : State) : State := { s with motor := { s.motor with stepPeriodMs := w } }

def State.setSeq (c : BitVec 5) (s : State) : State := { s with seq := c }

def State.setElapsed (w : Word) (s : State) : State := { s with elapsed := w }

def State.setEnv (e : Environment) (s : State) : State := { s with env := e }

def State.setBus (b : Bus) (s : State) : State := { s with bus := b }

/-- The record of button `b` (10_state.md R29). -/
def State.button (b : Button) (s : State) : ButtonInput :=
  match b with
  | .inc => s.btnInc
  | .dec => s.btnDec

/-- Replace the record of button `b`. -/
def State.setButton (b : Button) (r : ButtonInput) (s : State) : State :=
  match b with
  | .inc => { s with btnInc := r }
  | .dec => { s with btnDec := r }

end Sys2Proof.Machine
end

