-- ==== Sys2Proof/Machine/Operands.lean ====
section
/-! DEFINITION. Operand forms: arrays indexed by phase, the commutation table, the pin of a button, and the 38-bit word of a
port event. -/

namespace Sys2Proof

/-- Element `p` of an array indexed by phase. -/
def PerPhase.get {α : Type} (v : PerPhase α) (p : Phase) : α :=
  match p with
  | .A => v.a
  | .B => v.b
  | .C => v.c

/-- The array with element `p` replaced. -/
def PerPhase.set {α : Type} (v : PerPhase α) (p : Phase) (x : α) : PerPhase α :=
  match p with
  | .A => { v with a := x }
  | .B => { v with b := x }
  | .C => { v with c := x }

/-- The pin a button is read from (10_state.md R30, 30_encoding.md R87). -/
def Button.pin : Button → Pin
  | .inc => .btnInc
  | .dec => .btnDec

/-- `TABLE[i] = (H, L)`: the high-side and the low-side phase of step `i` (20_memory.md R62). -/
def commutationTable (i : StepIndex) : Phase × Phase :=
  match i.val with
  | 0 => (.A, .B)
  | 1 => (.A, .C)
  | 2 => (.B, .C)
  | 3 => (.B, .A)
  | 4 => (.C, .A)
  | _ => (.C, .B)

/-- `stepIndex + 1 mod 6` (43_control_loop.md R177). -/
def nextStepIndex (i : StepIndex) : StepIndex := ⟨(i.val + 1) % 6, Nat.mod_lt _ (by decide)⟩

/-- The phases other than `h`, in ascending order (41_commutation.md R125). -/
def otherPhases (h : Phase) : Phase × Phase :=
  match h with
  | .A => (.B, .C)
  | .B => (.A, .C)
  | .C => (.A, .B)

namespace Machine

/-- The command word that asked for an event; an answer is not part of the word (30_encoding.md R88). -/
def Event.word : Event → BitVec 38
  | .setHs p on => cmdWord 0b000#3 p.code (boolCode on) 0#32
  | .setLs p en duty => cmdWord 0b001#3 p.code (boolCode en) duty
  | .rdPin pin _ => cmdWord 0b010#3 pin.code 0#1 0#32
  | .rdTime _ => cmdWord 0b011#3 0#2 0#1 0#32
  | .dlyMs n => cmdWord 0b100#3 0#2 0#1 n
  | .dlyUs n => cmdWord 0b101#3 0#2 0#1 n

end Machine

end Sys2Proof
end

