-- ==== Sys2Proof/Machine/Flags.lean ====
section
/-! DEFINITION. Conditions and arithmetic. MCSM has no flag register (spec/10_state.md R38): each condition lives inside the
micro-operation that computes it. -/

namespace Sys2Proof.Machine

/-- The Control Loop state (10_state.md R39). -/
inductive Ctl where
  | running
  | faultHalted
deriving DecidableEq, Repr

/-- The status output `halted` is `seq[4]` (30_encoding.md R96). -/
def State.halted (s : State) : Bool := s.seq.getLsbD 4

/-- 10_state.md R39. -/
def State.ctl (s : State) : Ctl := if s.halted then .faultHalted else .running

/-- `f <- (e == 0) or (x == 1)` (40_safety_monitor.md R110). -/
def faultCondition (estopPin faultPin : Bool) : Bool := !estopPin || faultPin

/-- Wrap-safe subtraction of timestamps, `(a - b) mod 2^W` (00_scope.md R9). -/
def wsub (a b : Word) : Word := a - b

/-- At least `ms` milliseconds on the wrapping clock lie between `since` and `now` (42_debounce.md R150, R155). -/
def hasPersisted (now since ms : Word) : Bool := decide (ms.toNat ≤ (wsub now since).toNat)

/-- `elapsed >= stepPeriodMs` (43_control_loop.md R172). -/
def waitIsOver (elapsed stepPeriodMs : Word) : Bool := decide (stepPeriodMs.toNat ≤ elapsed.toNat)

/-- `duty` lies in the range `0 .. MAX_DUTY` that 44_driver_port.md R202 gives a SETLS. -/
def dutyInRange (c : Config) (duty : Word) : Bool := !decide (c.maxDuty.toNat < duty.toNat)

/-- SPEEDUP: `max(STEP_TIME_MIN_MS, s - STEP_TIME_STEP_MS)` on integers (43_control_loop.md R182). -/
def speedUp (c : Config) (s : Word) : Word :=
  if c.stepTimeMinMs.toNat + c.stepTimeStepMs.toNat ≤ s.toNat then s - c.stepTimeStepMs else c.stepTimeMinMs

/-- SPEEDDN: `min(STEP_TIME_MAX_MS, s + STEP_TIME_STEP_MS)` on integers (43_control_loop.md R183). -/
def speedDown (c : Config) (s : Word) : Word :=
  if s.toNat + c.stepTimeStepMs.toNat ≤ c.stepTimeMaxMs.toNat then s + c.stepTimeStepMs else c.stepTimeMaxMs

end Sys2Proof.Machine
end

