-- ==== Sys2Proof/Machine/Ops.lean ====
section
/-! DEFINITION. The shared operations: port commands, the engine requests the micro-operations call, entering and leaving
FaultHalted, the reset event, and the fetch of the next instruction. -/

namespace Sys2Proof.Machine

/-! ## The driver image and the event history (spec/44_driver_port.md R201, R202, R208) -/

/-- What one event does to the driver image; the four other kinds leave it unchanged (R208). -/
def DriverImage.apply (d : DriverImage) (e : Event) : DriverImage :=
  match e with
  | .setHs p on => { d with hsOn := d.hsOn.set p on }
  | .setLs p en duty => { d with lsEn := d.lsEn.set p en, lsDuty := d.lsDuty.set p duty }
  | .rdPin _ _ => d
  | .rdTime _ => d
  | .dlyMs _ => d
  | .dlyUs _ => d

/-- The image after a list of events (R208). -/
def DriverImage.applyAll (d : DriverImage) (es : List Event) : DriverImage := es.foldl DriverImage.apply d

/-- Issue one port command: append its event, and apply it to the image (10_state.md R40, R41). -/
def State.record (e : Event) (s : State) : State :=
  { s with trace := s.trace ++ [e], driver := s.driver.apply e }

/-! ## Draws (spec/20_memory.md R71, log 3) -/

/-- The level the environment answers to the next `RDPIN pin`. -/
def Environment.pinLevel (e : Environment) (pin : Pin) : Bool :=
  match e.pinSamples with
  | v :: _ => v
  | [] => Config.freePin e.draws pin

/-- The environment once it has answered one `RDPIN`. -/
def Environment.afterPin (e : Environment) : Environment :=
  { e with pinSamples := e.pinSamples.tail, draws := e.draws + 1 }

/-- The reading the environment answers to the next `RDTIME`. -/
def Environment.clockNow (e : Environment) : Word :=
  match e.clockReadings with
  | t :: _ => t
  | [] => Config.freeClock e.draws

/-- The environment once it has answered one `RDTIME`. -/
def Environment.afterClock (e : Environment) : Environment :=
  { e with clockReadings := e.clockReadings.tail, draws := e.draws + 1 }

/-! ## The six port commands (spec/44_driver_port.md) -/

/-- `SETHS(p, on)` (R201). -/
def setHs (p : Phase) (on : Bool) (s : State) : State := s.record (.setHs p on)

/-- `SETLS(p, en, duty)` (R202). -/
def setLs (p : Phase) (en : Bool) (duty : Word) (s : State) : State := s.record (.setLs p en duty)

/-- `RDPIN(pin)`: the answer and the state after it (R203). -/
def readPin (pin : Pin) (s : State) : Bool × State :=
  (s.env.pinLevel pin, (s.setEnv s.env.afterPin).record (.rdPin pin (s.env.pinLevel pin)))

/-- `RDTIME()`: the answer and the state after it (R204). -/
def readTime (s : State) : Word × State :=
  (s.env.clockNow, (s.setEnv s.env.afterClock).record (.rdTime s.env.clockNow))

/-- `DLYMS(n)` (R205). -/
def delayMs (n : Word) (s : State) : State := s.record (.dlyMs n)

/-- `DLYUS(n)` (R206). -/
def delayUs (n : Word) (s : State) : State := s.record (.dlyUs n)

/-- `DLYUS(DEAD_TIME_US)`, the deadtime barrier (20_memory.md R68). -/
def deadtime (s : State) : State := delayUs s.config.deadTimeUs s

/-! ## Safety Monitor and safe state -/

/-- `FCHK()`: both pins are sampled, the emergency stop first (40_safety_monitor.md R110). -/
def faultCheck (s : State) : Bool × State :=
  (faultCondition (readPin .estop s).1 (readPin .fault (readPin .estop s).2).1,
   (readPin .fault (readPin .estop s).2).2)

/-- `SAFEOFF()`: six off commands, then both fields `None` (41_commutation.md R120). -/
def safeOff (s : State) : State :=
  (s |> setHs .A false |> setHs .B false |> setHs .C false
     |> setLs .A false 0#32 |> setLs .B false 0#32 |> setLs .C false 0#32
     |> State.setHighSide none |> State.setLowSide none)

/-- Entry into FaultHalted, in the micro-operation that sampled the fault: `SAFEOFF`, then `seq <- HENTER`
(60_exceptions.md R224, R225). -/
def enterFaultHalted (s : State) : State := (safeOff s).setSeq SeqCode.HENTER

/-- Return from FaultHalted: `SAFEOFF` once more, then `seq <- CS1`; nothing is restored (60_exceptions.md R226). -/
def leaveFaultHalted (s : State) : State := (safeOff s).setSeq SeqCode.CS1

/-! ## The electrical transitions of `commutateStep` (spec/41_commutation.md) -/

/-- Algorithm step 2: the active low side off, if any; `currentLowSide <- None` (R123). -/
def lowSideOff (s : State) : State :=
  match s.motor.currentLowSide with
  | some l => (setLs l false 0#32 s).setLowSide none
  | none => s.setLowSide none

/-- Algorithm step 4: both high sides other than `h` off, in ascending order (R125). -/
def otherHighSidesOff (h : Phase) (s : State) : State :=
  setHs (otherPhases h).2 false (setHs (otherPhases h).1 false s)

/-- Algorithm step 6: the high side of `h` on, and recorded (R127). -/
def highSideOn (h : Phase) (s : State) : State := (setHs h true s).setHighSide (some h)

/-- Algorithm step 8: the low-side PWM of `l` on at `duty`, and recorded (R129). -/
def lowSideOn (l : Phase) (duty : Word) (s : State) : State := (setLs l true duty s).setLowSide (some l)

/-- The high-side phase of the step in force. -/
def State.targetHigh (s : State) : Phase := (commutationTable s.motor.stepIndex).1

/-- The low-side phase of the step in force. -/
def State.targetLow (s : State) : Phase := (commutationTable s.motor.stepIndex).2

/-- `COMMUTATE(step, dutyLevel)` in its big-step form, with the answer `cfault` (R121, 30_encoding.md R86). -/
def commutate (step : StepIndex) (dutyLevel : Word) (s : State) : Bool × State :=
  if (faultCheck s).1 then (true, enterFaultHalted (faultCheck s).2)
  else
    (false,
      ((faultCheck s).2
        |> lowSideOff |> deadtime
        |> otherHighSidesOff (commutationTable step).1 |> deadtime
        |> highSideOn (commutationTable step).1 |> deadtime
        |> lowSideOn (commutationTable step).2 dutyLevel
        |> State.setSeq SeqCode.WINIT))

/-! ## Debounce and repeat (spec/42_debounce.md R150) -/

/-- One poll of a button record with the sampled level `raw` and the reading `now`: the record after it, and `evt`. -/
def debounce (c : Config) (raw : Bool) (now : Word) (r : ButtonInput) : ButtonInput × Bool :=
  if raw != r.stableState then
    let since := if r.trans then r.lastChangeTime else now
    if hasPersisted now since c.debounceMs then
      if raw then ({ r with stableState := raw, lastChangeTime := now, trans := false }, false)
      else ({ stableState := raw, lastChangeTime := now, trans := false, lastEventTime := now }, true)
    else ({ r with trans := true, lastChangeTime := since }, false)
  else if r.stableState then ({ r with trans := false }, false)
  else if hasPersisted now r.lastEventTime c.repeatMs then ({ r with trans := false, lastEventTime := now }, true)
  else ({ r with trans := false }, false)

/-- `BTNPOLL(b)`: the pin, then the clock, then one poll of the record of `b`; answers `evt` (R150). -/
def pollButton (b : Button) (s : State) : Bool × State :=
  ((debounce s.config (readPin b.pin s).1 (readTime (readPin b.pin s).2).1 (s.button b)).2,
   (readTime (readPin b.pin s).2).2.setButton b
     (debounce s.config (readPin b.pin s).1 (readTime (readPin b.pin s).2).1 (s.button b)).1)

/-! ## Bus and port lines (log 5, log 6) -/

/-- Put the answer of a request on the bus. -/
def State.answerRequest (a : Option Bool) (s : State) : State := s.setBus { s.bus with reqAnswer := a }

/-- Put the answer of a command on the port. -/
def State.answerCommand (a : Option Response) (s : State) : State := s.setBus { s.bus with cmdAnswer := a }

/-! ## Reset and fetch -/

/-- The reset event: every element of state to the value of 10_state.md R45 at once, no port command; the parameters are not
affected and the image is not set by MCSM (70_reset_and_hazards.md R250, R251; log 9). -/
def resetEvent (s : State) : State := State.atReset s.config s.driver { s.env with rst := false }

/-- The word waiting first and the state once it is taken: one on the command port, else one on the request bus, else the
code in `seq`, which stays (30_encoding.md R80, 10_state.md R34, log 5). -/
def State.takeWord (s : State) : CodeWord × State :=
  match s.bus.cmd with
  | some w => (.port w, s.setBus { s.bus with cmd := none })
  | none =>
    match s.bus.req with
    | some w => (.request w, s.setBus { s.bus with req := none })
    | none => (.seq s.seq, s)

/-- The word the next step runs and the state once it is taken. A reserved code in `seq` is itself that word, whatever waits,
so that a state that holds one has no successor (20_memory.md R64, 30_encoding.md R91, U12). -/
def State.fetch (s : State) : CodeWord × State :=
  match decodeSeq s.seq with
  | .ok _ => s.takeWord
  | .error _ => (.seq s.seq, s)

/-- A reserved word as a refusal of the machine (log 11). -/
def refusalOf : DecodeError → Refusal
  | .reservedSeq code => .reservedSeqCode code
  | .reservedRequest w => .reservedRequestWord w
  | .reservedCommand w => .reservedCommandWord w

/-- `s` with CS1 in place of a reserved code in `seq`. -/
def State.legalizeSeq (s : State) : State :=
  match decodeSeq s.seq with
  | .ok _ => s
  | .error _ => s.setSeq SeqCode.CS1

/-- `s` with the word `c` placed where `step` takes its next instruction from; a waiting word is taken only beside a legal
code in `seq`. -/
def State.placeWord (c : CodeWord) (s : State) : State :=
  match c with
  | .seq code => { s with seq := code, bus := { s.bus with req := none, cmd := none } }
  | .request w => s.legalizeSeq.setBus { s.bus with req := some w, cmd := none }
  | .port w => s.legalizeSeq.setBus { s.bus with cmd := some w }

end Sys2Proof.Machine
end

