-- ==== Sys2Proof/Machine/Commutation.lean ====
section
/-! DEFINITION. The eight micro-operations of `commutateStep` (spec/41_commutation.md R122 to R129). -/

namespace Sys2Proof.Machine

/-- CS1: fault check; the safe state and FaultHalted on a fault (R122). -/
def execCs1 (s : State) : Host.Outcome State Fault Refusal :=
  .next (if (faultCheck s).1 then enterFaultHalted (faultCheck s).2 else (faultCheck s).2.setSeq SeqCode.CS2)

/-- CS2: the active low side off (R123). -/
def execCs2 (s : State) : Host.Outcome State Fault Refusal := .next ((lowSideOff s).setSeq SeqCode.CS3)

/-- CS3: deadtime (R124). -/
def execCs3 (s : State) : Host.Outcome State Fault Refusal := .next ((deadtime s).setSeq SeqCode.CS4)

/-- CS4: the other high sides off (R125); `currentHighSide` is not written. -/
def execCs4 (s : State) : Host.Outcome State Fault Refusal :=
  .next ((otherHighSidesOff s.targetHigh s).setSeq SeqCode.CS5)

/-- CS5: deadtime (R126). -/
def execCs5 (s : State) : Host.Outcome State Fault Refusal := .next ((deadtime s).setSeq SeqCode.CS6)

/-- CS6: the target high side on (R127). -/
def execCs6 (s : State) : Host.Outcome State Fault Refusal := .next ((highSideOn s.targetHigh s).setSeq SeqCode.CS7)

/-- CS7: deadtime (R128). -/
def execCs7 (s : State) : Host.Outcome State Fault Refusal := .next ((deadtime s).setSeq SeqCode.CS8)

/-- CS8: the target low side on at `pwmLevel` (R129). -/
def execCs8 (s : State) : Host.Outcome State Fault Refusal :=
  .next ((lowSideOn s.targetLow s.motor.pwmLevel s).setSeq SeqCode.WINIT)

end Sys2Proof.Machine
end

