-- ==== Sys2Proof/Machine/ControlLoop.lean ====
section
/-! DEFINITION. The inter-step wait, the advance and FaultHalted (spec/43_control_loop.md R171 to R181). -/

namespace Sys2Proof.Machine

/-- WINIT: `elapsed <- 0` (R171). -/
def execWinit (s : State) : Host.Outcome State Fault Refusal := .next ((s.setElapsed 0#32).setSeq SeqCode.WCHK)

/-- WCHK: is the wait over? (R172) -/
def execWchk (s : State) : Host.Outcome State Fault Refusal :=
  .next (s.setSeq (if waitIsOver s.elapsed s.motor.stepPeriodMs then SeqCode.ADV else SeqCode.WFAULT))

/-- WFAULT: the Safety Monitor in a poll tick (R173). -/
def execWfault (s : State) : Host.Outcome State Fault Refusal :=
  .next (if (faultCheck s).1 then enterFaultHalted (faultCheck s).2 else (faultCheck s).2.setSeq SeqCode.WINC)

/-- WINC: the increase-speed button (R174). -/
def execWinc (s : State) : Host.Outcome State Fault Refusal :=
  .next ((if (pollButton .inc s).1
    then (pollButton .inc s).2.setStepPeriod (speedUp s.config s.motor.stepPeriodMs)
    else (pollButton .inc s).2).setSeq SeqCode.WDEC)

/-- WDEC: the decrease-speed button (R175). -/
def execWdec (s : State) : Host.Outcome State Fault Refusal :=
  .next ((if (pollButton .dec s).1
    then (pollButton .dec s).2.setStepPeriod (speedDown s.config s.motor.stepPeriodMs)
    else (pollButton .dec s).2).setSeq SeqCode.WSLEEP)

/-- WSLEEP: sleep `POLL_MS`, count it (R176). -/
def execWsleep (s : State) : Host.Outcome State Fault Refusal :=
  .next (((delayMs s.config.pollMs s).setElapsed (s.elapsed + s.config.pollMs)).setSeq SeqCode.WCHK)

/-- ADV: `stepIndex <- (stepIndex + 1) mod 6` (R177). -/
def execAdv (s : State) : Host.Outcome State Fault Refusal :=
  .next ((s.setStepIndex (nextStepIndex s.motor.stepIndex)).setSeq SeqCode.CS1)

/-- HENTER: force safe-all-off (R178). -/
def execHenter (s : State) : Host.Outcome State Fault Refusal := .next ((safeOff s).setSeq SeqCode.HPOLL)

/-- HPOLL: poll the Safety Monitor (R179). -/
def execHpoll (s : State) : Host.Outcome State Fault Refusal :=
  .next ((faultCheck s).2.setSeq (if (faultCheck s).1 then SeqCode.HSLEEP else SeqCode.HEXIT))

/-- HSLEEP: the coarse sleep (R180). -/
def execHsleep (s : State) : Host.Outcome State Fault Refusal :=
  .next ((delayMs s.config.faultPollMs s).setSeq SeqCode.HPOLL)

/-- HEXIT: safe-all-off once more, back to Running (R181). -/
def execHexit (s : State) : Host.Outcome State Fault Refusal := .next (leaveFaultHalted s)

end Sys2Proof.Machine
end

