-- ==== Sys2Proof/Machine/PortCommand.lean ====
section
/-! DEFINITION. The six port commands taken from the command port (spec/44_driver_port.md); a read leaves its answer on the
port, the others answer nothing (spec/30_encoding.md R90, log 6). -/

namespace Sys2Proof.Machine

/-- SETHS p, on (R201); the selector `11` is no phase (30_encoding.md R93). -/
def execSeths (sel : BitVec 2) (on : Bool) (s : State) : Host.Outcome State Fault Refusal :=
  match phaseOfCode sel with
  | some p => .next ((setHs p on s).answerCommand none)
  | none => .refused (.noSuchPhase sel)

/-- SETLS p, en, duty (R202); the selector `11` is no phase (30_encoding.md R93), and a duty above `MAX_DUTY` is given no
meaning (93_implementation_defined.md U11, log 12). -/
def execSetls (sel : BitVec 2) (en : Bool) (duty : Word) (s : State) : Host.Outcome State Fault Refusal :=
  match phaseOfCode sel with
  | some p =>
    if dutyInRange s.config duty then .next ((setLs p en duty s).answerCommand none)
    else .refused (.dutyAboveMax duty)
  | none => .refused (.noSuchPhase sel)

/-- RDPIN pin (R203). -/
def execRdpin (pin : Pin) (s : State) : Host.Outcome State Fault Refusal :=
  .next ((readPin pin s).2.answerCommand (some (.bit (readPin pin s).1)))

/-- RDTIME (R204). -/
def execRdtime (s : State) : Host.Outcome State Fault Refusal :=
  .next ((readTime s).2.answerCommand (some (.word (readTime s).1)))

/-- DLYMS n (R205). -/
def execDlyms (n : Word) (s : State) : Host.Outcome State Fault Refusal := .next ((delayMs n s).answerCommand none)

/-- DLYUS n (R206). -/
def execDlyus (n : Word) (s : State) : Host.Outcome State Fault Refusal := .next ((delayUs n s).answerCommand none)

end Sys2Proof.Machine
end

