-- ==== Sys2Proof/Machine/Request.lean ====
section
/-! DEFINITION. The four engine requests taken from the request bus (spec/30_encoding.md R85); each leaves its answer on the
bus (log 6). -/

namespace Sys2Proof.Machine

/-- FCHK: answers `f` (40_safety_monitor.md R110). -/
def execFchk (s : State) : Host.Outcome State Fault Refusal :=
  .next ((faultCheck s).2.answerRequest (some (faultCheck s).1))

/-- SAFEOFF: answers nothing (41_commutation.md R120). -/
def execSafeoff (s : State) : Host.Outcome State Fault Refusal := .next ((safeOff s).answerRequest none)

/-- COMMUTATE step, dutyLevel: answers `cfault` (41_commutation.md R121, log 18); a step selector 6 or 7 has no meaning
(30_encoding.md R92). -/
def execCommutate (step : BitVec 3) (dutyLevel : Word) (s : State) : Host.Outcome State Fault Refusal :=
  match stepOfCode step with
  | some i => .next ((commutate i dutyLevel s).2.answerRequest (some (commutate i dutyLevel s).1))
  | none => .refused (.noSuchStep step)

/-- BTNPOLL b: answers `evt` (42_debounce.md R150). -/
def execBtnpoll (b : Button) (s : State) : Host.Outcome State Fault Refusal :=
  .next ((pollButton b s).2.answerRequest (some (pollButton b s).1))

end Sys2Proof.Machine
end

