-- ==== Sys2Proof/Machine/Dispatch.lean ====
section
/-! DEFINITION. One arm per instruction. -/

namespace Sys2Proof.Machine

/-- What an instruction does, whatever place its word was found at. -/
def exec (i : Instr) (s : State) : Host.Outcome State Fault Refusal :=
  match i with
  | .cs1 => Sys2Proof.Machine.execCs1 s
  | .cs2 => Sys2Proof.Machine.execCs2 s
  | .cs3 => Sys2Proof.Machine.execCs3 s
  | .cs4 => Sys2Proof.Machine.execCs4 s
  | .cs5 => Sys2Proof.Machine.execCs5 s
  | .cs6 => Sys2Proof.Machine.execCs6 s
  | .cs7 => Sys2Proof.Machine.execCs7 s
  | .cs8 => Sys2Proof.Machine.execCs8 s
  | .winit => Sys2Proof.Machine.execWinit s
  | .wchk => Sys2Proof.Machine.execWchk s
  | .wfault => Sys2Proof.Machine.execWfault s
  | .winc => Sys2Proof.Machine.execWinc s
  | .wdec => Sys2Proof.Machine.execWdec s
  | .wsleep => Sys2Proof.Machine.execWsleep s
  | .adv => Sys2Proof.Machine.execAdv s
  | .henter => Sys2Proof.Machine.execHenter s
  | .hpoll => Sys2Proof.Machine.execHpoll s
  | .hsleep => Sys2Proof.Machine.execHsleep s
  | .hexit => Sys2Proof.Machine.execHexit s
  | .fchk => Sys2Proof.Machine.execFchk s
  | .safeoff => Sys2Proof.Machine.execSafeoff s
  | .commutate step dutyLevel => Sys2Proof.Machine.execCommutate step dutyLevel s
  | .btnpoll b => Sys2Proof.Machine.execBtnpoll b s
  | .seths phase on => Sys2Proof.Machine.execSeths phase on s
  | .setls phase enabled duty => Sys2Proof.Machine.execSetls phase enabled duty s
  | .rdpin pin => Sys2Proof.Machine.execRdpin pin s
  | .rdtime => Sys2Proof.Machine.execRdtime s
  | .dlyms n => Sys2Proof.Machine.execDlyms n s
  | .dlyus n => Sys2Proof.Machine.execDlyus n s

end Sys2Proof.Machine
end

