-- ==== Sys2Proof/Machine/Step.lean ====
section
/-! DEFINITION. One step of MCSM, and the placing of a word where the step takes its next instruction from. -/

namespace Sys2Proof.Machine

/-- One step (spec/00_scope.md R3): a reset request is served first (spec/70_reset_and_hazards.md R250, log 9); otherwise the
word fetched is decoded and run, and a reserved code or word is refused (spec/30_encoding.md R91 to R93). -/
def step (s : State) : Host.Outcome State Fault Refusal :=
  if s.env.rst then .next (resetEvent s)
  else
    match decode s.fetch.1 with
    | .ok i => exec i s.fetch.2
    | .error e => .refused (refusalOf e)

/-- `s` with the opcode-table number `w` where `step` takes its next instruction from: in `seq`, on the request bus or on
the command port (log 7, log 8). A number that fits none of them changes nothing. -/
def State.withFetchWord (s : State) (nbits w : Nat) : State :=
  match tableCodeWord nbits w with
  | some c => { s.placeWord c with env := { s.env with rst := false } }
  | none => s

end Sys2Proof.Machine
end

