-- ==== Sys2Proof/Safety.lean ====
section
/-! DEFINITION. What counts as a safe run of MCSM, in the terms the claims use: the named premises on the environment
(spec/92_eei_decisions.md D20, D22) and the invariants of spec/10_state.md R28, R42 and spec/41_commutation.md R130, R132. -/

namespace Sys2Proof.Machine

/-! ## Premises -/

/-- `ENV_BOOT_ALLOFF`, part (c): the driver image is all off (70_reset_and_hazards.md R253, D20). -/
def EnvBootAllOff (s : State) : Prop := s.driver = DriverImage.allOff

/-- `ENV_CLOCK` and `ENV_DELAY(lo, hi)` over a history that starts at the true time `now` and ends at `final` (D22): true time
never decreases, every clock reading is the true time modulo `2^W`, and across `DLYMS n` true time advances by between
`n + lo` and `n + hi` milliseconds. Neither is assumed by the model. -/
def EnvTimed (lo hi final : Int) : Int → List Event → Prop
  | now, [] => now ≤ final
  | now, .rdTime t :: r => ∃ later, now ≤ later ∧ t = BitVec.ofInt 32 later ∧ EnvTimed lo hi final later r
  | now, .dlyMs n :: r =>
    ∃ later, now ≤ later ∧ now + n.toNat + lo ≤ later ∧ later ≤ now + n.toNat + hi ∧ EnvTimed lo hi final later r
  | now, .dlyUs _ :: r => EnvTimed lo hi final now r
  | now, .rdPin _ _ :: r => EnvTimed lo hi final now r
  | now, .setHs _ _ :: r => EnvTimed lo hi final now r
  | now, .setLs _ _ _ :: r => EnvTimed lo hi final now r

/-- Nothing but the hardwired program runs next: no word waits on the bus or the port and no reset is asked for. -/
structure State.Quiet (s : State) : Prop where
  no_request : s.bus.req = none
  no_command : s.bus.cmd = none
  no_reset : s.env.rst = false

/-- `seq` holds one of the 19 codes of 30_encoding.md R84. -/
def State.SeqLegal (s : State) : Prop := ∃ i, decodeSeq s.seq = .ok i

/-! ## The driver image (spec/10_state.md R28, spec/41_commutation.md R132) -/

/-- R28 over the driver image: at most one high side on, at most one low side enabled, never both of one phase. -/
structure DriverImage.NoShootThrough (d : DriverImage) : Prop where
  one_high : ∀ p q, d.hsOn.get p = true → d.hsOn.get q = true → p = q
  one_low : ∀ p q, d.lsEn.get p = true → d.lsEn.get q = true → p = q
  disjoint : ∀ p, ¬ (d.hsOn.get p = true ∧ d.lsEn.get p = true)

/-- R28 over the fields: whenever both are `Some` they differ. -/
def MotorState.FieldsDistinct (m : MotorState) : Prop := ∀ p, ¬ (m.currentHighSide = some p ∧ m.currentLowSide = some p)

/-- R132: the image is consistent with the fields. -/
structure State.Consistent (s : State) : Prop where
  safe : s.driver.NoShootThrough
  low_recorded : ∀ p, s.driver.lsEn.get p = true → s.motor.currentLowSide = some p
  high_recorded : ∀ p, s.driver.hsOn.get p = true → s.motor.currentHighSide = some p

/-- The inductive form of R28, R42 and R132: consistency, and what holds at each place of the program (R132: "after `CS2` no
low side is enabled ...; `CS4` leaves at most the high side `H` on; `CS6` leaves exactly `H` on"; R42 in FaultHalted). -/
structure State.DriveInv (s : State) : Prop where
  quiet : s.Quiet
  consistent : s.Consistent
  distinct : s.motor.FieldsDistinct
  low_off_after_cs2 :
    s.seq ∈ [SeqCode.CS3, SeqCode.CS4, SeqCode.CS5, SeqCode.CS6, SeqCode.CS7, SeqCode.CS8] →
      s.motor.currentLowSide = none
  only_target_after_cs4 :
    s.seq ∈ [SeqCode.CS5, SeqCode.CS6, SeqCode.CS7, SeqCode.CS8] →
      ∀ p, s.driver.hsOn.get p = true → p = s.targetHigh
  target_recorded_after_cs6 :
    s.seq ∈ [SeqCode.CS7, SeqCode.CS8] → s.motor.currentHighSide = some s.targetHigh
  halted_all_off :
    s.halted = true →
      s.motor.currentHighSide = none ∧ s.motor.currentLowSide = none ∧ s.driver = DriverImage.allOff

/-! ## The event history (spec/41_commutation.md R130, spec/60_exceptions.md R227, spec/70_reset_and_hazards.md R262) -/

/-- A history `l` after which the high side `h` may be switched on: it ends with a clear sample of both safety inputs, at
most one low-side off, a deadtime, the other two high sides off, a deadtime. -/
def HighOnGuarded (dead : Word) (l : List Event) (h : Phase) : Prop :=
  ∃ before off, (off = [] ∨ ∃ q, off = [Event.setLs q false 0#32]) ∧
    l = before ++ [.rdPin .estop true, .rdPin .fault false] ++ off ++
      [.dlyUs dead, .setHs (otherPhases h).1 false, .setHs (otherPhases h).2 false, .dlyUs dead]

/-- A history `l` after which the low side `p` may be enabled: a guarded high side of another phase was switched on, and a
deadtime followed. -/
def LowOnGuarded (dead : Word) (l : List Event) (p : Phase) : Prop :=
  ∃ before h, h ≠ p ∧ HighOnGuarded dead before h ∧ l = before ++ [.setHs h true, .dlyUs dead]

/-- Every on command of the history is guarded. -/
structure State.TraceGuarded (s : State) : Prop where
  high : ∀ l r h, s.trace = l ++ Event.setHs h true :: r → HighOnGuarded s.config.deadTimeUs l h
  low : ∀ l r p d, s.trace = l ++ Event.setLs p true d :: r → LowOnGuarded s.config.deadTimeUs l p

/-- The end of the history at the micro-operations of one `commutateStep`. -/
structure State.TraceInv (s : State) : Prop where
  quiet : s.Quiet
  guarded : s.TraceGuarded
  at_cs2 : s.seq = SeqCode.CS2 → ∃ l, s.trace = l ++ [.rdPin .estop true, .rdPin .fault false]
  at_cs3 : s.seq = SeqCode.CS3 → ∃ l off, (off = [] ∨ ∃ q, off = [Event.setLs q false 0#32]) ∧
    s.trace = l ++ [.rdPin .estop true, .rdPin .fault false] ++ off
  at_cs4 : s.seq = SeqCode.CS4 → ∃ l off, (off = [] ∨ ∃ q, off = [Event.setLs q false 0#32]) ∧
    s.trace = l ++ [.rdPin .estop true, .rdPin .fault false] ++ off ++ [.dlyUs s.config.deadTimeUs]
  at_cs5 : s.seq = SeqCode.CS5 → ∃ l off, (off = [] ∨ ∃ q, off = [Event.setLs q false 0#32]) ∧
    s.trace = l ++ [.rdPin .estop true, .rdPin .fault false] ++ off ++
      [.dlyUs s.config.deadTimeUs, .setHs (otherPhases s.targetHigh).1 false, .setHs (otherPhases s.targetHigh).2 false]
  at_cs6 : s.seq = SeqCode.CS6 → HighOnGuarded s.config.deadTimeUs s.trace s.targetHigh
  at_cs7 : s.seq = SeqCode.CS7 → ∃ l, HighOnGuarded s.config.deadTimeUs l s.targetHigh ∧
    s.trace = l ++ [.setHs s.targetHigh true]
  at_cs8 : s.seq = SeqCode.CS8 → ∃ l, HighOnGuarded s.config.deadTimeUs l s.targetHigh ∧
    s.trace = l ++ [.setHs s.targetHigh true, .dlyUs s.config.deadTimeUs]

/-! ## Numbers (spec/10_state.md R26, R27, R36) -/

/-- Under a configuration that meets 00_scope.md R7: the duty and the period stay in their ranges, and in a poll tick the
wait counter has room for one more sleep. -/
structure State.RangeInv (s : State) : Prop where
  quiet : s.Quiet
  config_ok : s.config.Ok
  duty_in_range : s.motor.pwmLevel.toNat ≤ s.config.maxDuty.toNat
  period_ge_min : s.config.stepTimeMinMs.toNat ≤ s.motor.stepPeriodMs.toNat
  period_le_max : s.motor.stepPeriodMs.toNat ≤ s.config.stepTimeMaxMs.toNat
  elapsed_in_tick :
    s.seq ∈ [SeqCode.WFAULT, SeqCode.WINC, SeqCode.WDEC, SeqCode.WSLEEP] →
      s.elapsed.toNat < s.config.stepTimeMaxMs.toNat

/-! ## Sequences of polls -/

/-- The answers `evt` of `n` engine requests `BTNPOLL b`, one after the other. -/
def pollAnswers (b : Button) : Nat → State → List Bool
  | 0, _ => []
  | n + 1, s =>
    match exec (.btnpoll b) s with
    | .next t => (t.bus.reqAnswer == some true) :: pollAnswers b n t
    | .fault _ => []
    | .refused _ => []

end Sys2Proof.Machine
end

