-- ==== Sys2Proof/Certificates/Slice0/Obligations.lean ====
section
/-! DEFINITION. The statements for the provers. An equation `exec i s = .next { s with … }` names everything that changes;
what it does not name is unchanged. Numbers are compared as naturals. -/

open Sys2Proof Sys2Proof.Machine

/-! ## Reset -/

/-- 10_state.md R45, 70_reset_and_hazards.md R251. The values of `stepIndex`, the button records and `elapsed` are the spec's
decision D19 (log 15). -/
def Obligations.ResetLoadsTheTableOfResetValues : Prop :=
  State.reset.motor =
      { currentHighSide := none
        currentLowSide := none
        stepIndex := 0
        pwmLevel := State.reset.config.pwmInit
        stepPeriodMs := State.reset.config.stepTimeInitMs } ∧
    State.reset.btnInc = { stableState := true, trans := false, lastChangeTime := 0#32, lastEventTime := 0#32 } ∧
    State.reset.btnDec = { stableState := true, trans := false, lastChangeTime := 0#32, lastEventTime := 0#32 } ∧
    State.reset.seq = 0b00000#5 ∧ State.reset.halted = false ∧ State.reset.ctl = Ctl.running ∧
    State.reset.elapsed = 0#32 ∧ State.reset.trace = [] ∧ State.reset.config.Ok

/-- 70_reset_and_hazards.md R250, R251: the reset event, in any state whatever; parameters and driver image stay. That it is
served before anything else is the model's choice (log 9). -/
def Obligations.ResetEventPutsEveryElementToItsResetValue : Prop :=
  ∀ s : State, s.env.rst = true →
    step s = .next
      { motor :=
          { currentHighSide := none
            currentLowSide := none
            stepIndex := 0
            pwmLevel := s.config.pwmInit
            stepPeriodMs := s.config.stepTimeInitMs }
        btnInc := { stableState := true, trans := false, lastChangeTime := 0#32, lastEventTime := 0#32 }
        btnDec := { stableState := true, trans := false, lastChangeTime := 0#32, lastEventTime := 0#32 }
        seq := 0b00000#5
        elapsed := 0#32
        config := s.config
        driver := s.driver
        trace := []
        env := { s.env with rst := false }
        bus := { req := none, cmd := none, reqAnswer := none, cmdAnswer := none } }

/-! ## Port commands -/

/-- 44_driver_port.md R201: the event, the image, the encoding, no response, and no change of the image when repeated. -/
def Obligations.SetHsDrivesOneHighSide : Prop :=
  ∀ (p : Phase) (on : Bool) (s : State),
    exec (.seths p.code on) s = .next { s with
      driver := { s.driver with hsOn := s.driver.hsOn.set p on }
      trace := s.trace ++ [.setHs p on]
      bus := { s.bus with cmdAnswer := none } } ∧
    encode (.seths p.code on) = .port (0b000#3 ++ p.code ++ (if on then 1#1 else 0#1) ++ 0#32) ∧
    (s.driver.hsOn.get p = on → s.driver.hsOn.set p on = s.driver.hsOn)

/-- 44_driver_port.md R202, for every duty up to `MAX_DUTY`. A duty above it is refused: the ruling U11 of
93_implementation_defined.md, taken up by the model's choice of log 12. -/
def Obligations.SetLsConfiguresOneLowSide : Prop :=
  ∀ (p : Phase) (en : Bool) (duty : Word) (s : State),
    (duty.toNat ≤ s.config.maxDuty.toNat →
      exec (.setls p.code en duty) s = .next { s with
        driver := { s.driver with lsEn := s.driver.lsEn.set p en, lsDuty := s.driver.lsDuty.set p duty }
        trace := s.trace ++ [.setLs p en duty]
        bus := { s.bus with cmdAnswer := none } }) ∧
    (s.config.maxDuty.toNat < duty.toNat → exec (.setls p.code en duty) s = .refused (.dutyAboveMax duty)) ∧
    encode (.setls p.code en duty) = .port (0b001#3 ++ p.code ++ (if en then 1#1 else 0#1) ++ duty)

/-- 44_driver_port.md R203, R204: each read is one draw, recorded and answered (draws: log 3; the answer lines: log 6). -/
def Obligations.ReadsAnswerOneDraw : Prop :=
  ∀ (pin : Pin) (s : State),
    exec (.rdpin pin) s = .next { s with
      env := s.env.afterPin
      trace := s.trace ++ [.rdPin pin (s.env.pinLevel pin)]
      bus := { s.bus with cmdAnswer := some (.bit (s.env.pinLevel pin)) } } ∧
    exec .rdtime s = .next { s with
      env := s.env.afterClock
      trace := s.trace ++ [.rdTime s.env.clockNow]
      bus := { s.bus with cmdAnswer := some (.word s.env.clockNow) } }

/-- 44_driver_port.md R205, R206: a delay writes no state, and its event carries the requested length. -/
def Obligations.DelaysOnlyRecordTheirLength : Prop :=
  ∀ (n : Word) (s : State),
    exec (.dlyms n) s = .next { s with trace := s.trace ++ [.dlyMs n], bus := { s.bus with cmdAnswer := none } } ∧
    encode (.dlyms n) = .port (0b100#3 ++ 0b00#2 ++ 0#1 ++ n) ∧
    exec (.dlyus n) s = .next { s with trace := s.trace ++ [.dlyUs n], bus := { s.bus with cmdAnswer := none } } ∧
    encode (.dlyus n) = .port (0b101#3 ++ 0b00#2 ++ 0#1 ++ n)

/-- 30_encoding.md R92, R93 (D23): the forms with a reserved selector are refused. -/
def Obligations.ReservedSelectorsAreRefused : Prop :=
  ∀ (s : State) (on en : Bool) (duty : Word) (step : BitVec 3), 6 ≤ step.toNat →
    exec (.seths 0b11#2 on) s = .refused (.noSuchPhase 0b11#2) ∧
    exec (.setls 0b11#2 en duty) s = .refused (.noSuchPhase 0b11#2) ∧
    exec (.commutate step duty) s = .refused (.noSuchStep step)

/-- 30_encoding.md R88, 10_state.md R41: a command taken from the port is one event, and the event's word is the command. -/
def Obligations.PortCommandIsOneEventOfItsWord : Prop :=
  ∀ (i : Instr) (w : BitVec 38) (s t : State), encode i = .port w → exec i s = .next t →
    ∃ e, t.trace = s.trace ++ [e] ∧ e.word = w

/-! ## Safety Monitor -/

/-- 40_safety_monitor.md R110: both pins, the emergency stop first (D9); nothing else changes. -/
def Obligations.FaultCheckSamplesBothPins : Prop :=
  ∀ (s : State) (e x : Bool), e = s.env.pinLevel .estop → x = s.env.afterPin.pinLevel .fault →
    exec .fchk s = .next { s with
      env := s.env.afterPin.afterPin
      trace := s.trace ++ [.rdPin .estop e, .rdPin .fault x]
      bus := { s.bus with reqAnswer := some (decide (e = false ∨ x = true)) } }

/-- 40_safety_monitor.md R111, R112, 60_exceptions.md R222, R229: after a clear sample CS1 goes to CS2 and WFAULT to WINC; HPOLL
goes to HEXIT after a clear sample and to HSLEEP after a faulty one. Nothing but `seq`, the draws and the two events. -/
def Obligations.ClearSampleLetsTheProgramGoOn : Prop :=
  ∀ (s : State) (e x : Bool), e = s.env.pinLevel .estop → x = s.env.afterPin.pinLevel .fault →
    (e = true → x = false →
      exec .cs1 s = .next { s with
        env := s.env.afterPin.afterPin
        trace := s.trace ++ [.rdPin .estop e, .rdPin .fault x]
        seq := 0b00001#5 } ∧
      exec .wfault s = .next { s with
        env := s.env.afterPin.afterPin
        trace := s.trace ++ [.rdPin .estop e, .rdPin .fault x]
        seq := 0b01011#5 }) ∧
    exec .hpoll s = .next { s with
      env := s.env.afterPin.afterPin
      trace := s.trace ++ [.rdPin .estop e, .rdPin .fault x]
      seq := if e = true ∧ x = false then 0b10011#5 else 0b10010#5 }

/-- 60_exceptions.md R224, R225, 41_commutation.md R122, 43_control_loop.md R173: a faulty sample at CS1 or WFAULT puts the
machine in FaultHalted within the same micro-operation, with everything off (entry from CS1 is D12, log 17). -/
def Obligations.FaultySampleEntersFaultHalted : Prop :=
  ∀ (s : State) (e x : Bool), e = s.env.pinLevel .estop → x = s.env.afterPin.pinLevel .fault →
    e = false ∨ x = true → ∀ i ∈ [Instr.cs1, Instr.wfault],
      exec i s = .next { s with
        motor := { s.motor with currentHighSide := none, currentLowSide := none }
        driver :=
          { hsOn := ⟨false, false, false⟩, lsEn := ⟨false, false, false⟩, lsDuty := ⟨0#32, 0#32, 0#32⟩ }
        trace := s.trace ++ [.rdPin .estop e, .rdPin .fault x,
          .setHs .A false, .setHs .B false, .setHs .C false,
          .setLs .A false 0#32, .setLs .B false 0#32, .setLs .C false 0#32]
        env := s.env.afterPin.afterPin
        seq := 0b10000#5 }

/-! ## Commutation Engine -/

/-- 41_commutation.md R120 (order of the commands: D10), 70_reset_and_hazards.md R263: whatever the image was, it is all off. -/
def Obligations.SafeOffForcesEverySwitchOff : Prop :=
  ∀ s : State,
    exec .safeoff s = .next { s with
      motor := { s.motor with currentHighSide := none, currentLowSide := none }
      driver := { hsOn := ⟨false, false, false⟩, lsEn := ⟨false, false, false⟩, lsDuty := ⟨0#32, 0#32, 0#32⟩ }
      trace := s.trace ++ [.setHs .A false, .setHs .B false, .setHs .C false,
        .setLs .A false 0#32, .setLs .B false 0#32, .setLs .C false 0#32]
      bus := { s.bus with reqAnswer := none } }

/-- 20_memory.md R62: the six entries; in every one the two phases differ. -/
def Obligations.CommutationTableHasTheSixPairs : Prop :=
  commutationTable 0 = (.A, .B) ∧ commutationTable 1 = (.A, .C) ∧ commutationTable 2 = (.B, .C) ∧
    commutationTable 3 = (.B, .A) ∧ commutationTable 4 = (.C, .A) ∧ commutationTable 5 = (.C, .B) ∧
    ∀ i, (commutationTable i).1 ≠ (commutationTable i).2

/-- 41_commutation.md R123 (the duty of a disable: D11). -/
def Obligations.Cs2DisablesTheActiveLowSide : Prop :=
  ∀ s : State,
    (∀ l, s.motor.currentLowSide = some l →
      exec .cs2 s = .next { s with
        motor := { s.motor with currentLowSide := none }
        driver := { s.driver with lsEn := s.driver.lsEn.set l false, lsDuty := s.driver.lsDuty.set l 0#32 }
        trace := s.trace ++ [.setLs l false 0#32]
        seq := 0b00010#5 }) ∧
    (s.motor.currentLowSide = none → exec .cs2 s = .next { s with seq := 0b00010#5 })

/-- 41_commutation.md R124, R126, R128: CS3, CS5 and CS7 delay by `DEAD_TIME_US` and go on; their `SEQ` codes are 2, 4, 6. -/
def Obligations.DeadtimeMicroOpsDelayAndGoOn : Prop :=
  ∀ s : State,
    exec .cs3 s = .next { s with trace := s.trace ++ [.dlyUs s.config.deadTimeUs], seq := 0b00011#5 } ∧
    exec .cs5 s = .next { s with trace := s.trace ++ [.dlyUs s.config.deadTimeUs], seq := 0b00101#5 } ∧
    exec .cs7 s = .next { s with trace := s.trace ++ [.dlyUs s.config.deadTimeUs], seq := 0b00111#5 } ∧
    decode (.seq 2#5) = .ok .cs3 ∧ decode (.seq 4#5) = .ok .cs5 ∧ decode (.seq 6#5) = .ok .cs7

/-- 41_commutation.md R125 (always two commands, ascending: D11), 70_reset_and_hazards.md R260: the two high sides other than
the target go off; `currentHighSide` is not written. -/
def Obligations.Cs4FloatsTheOtherHighSides : Prop :=
  ∀ (s : State) (p q : Phase),
    (s.targetHigh = .A → p = .B ∧ q = .C) → (s.targetHigh = .B → p = .A ∧ q = .C) →
    (s.targetHigh = .C → p = .A ∧ q = .B) →
      exec .cs4 s = .next { s with
        driver := { s.driver with hsOn := (s.driver.hsOn.set p false).set q false }
        trace := s.trace ++ [.setHs p false, .setHs q false]
        seq := 0b00100#5 }

/-- 41_commutation.md R127 (issued on every execution: D11). -/
def Obligations.Cs6ActivatesTheTargetHighSide : Prop :=
  ∀ (s : State) (h l : Phase), commutationTable s.motor.stepIndex = (h, l) →
    exec .cs6 s = .next { s with
      motor := { s.motor with currentHighSide := some h }
      driver := { s.driver with hsOn := s.driver.hsOn.set h true }
      trace := s.trace ++ [.setHs h true]
      seq := 0b00110#5 }

/-- 41_commutation.md R129, 70_reset_and_hazards.md R261: `pwmLevel` is passed unchecked, 0 as well; the `SEQ` code is 7.
What the event leaves in the image above `MAX_DUTY` is the model's choice (log 12): U11 gives that SETLS no meaning, and R26
and R7 rule such a `pwmLevel` out. -/
def Obligations.Cs8EnablesTheTargetLowSide : Prop :=
  (∀ (s : State) (h l : Phase), commutationTable s.motor.stepIndex = (h, l) →
    exec .cs8 s = .next { s with
      motor := { s.motor with currentLowSide := some l }
      driver :=
        { s.driver with lsEn := s.driver.lsEn.set l true, lsDuty := s.driver.lsDuty.set l s.motor.pwmLevel }
      trace := s.trace ++ [.setLs l true s.motor.pwmLevel]
      seq := 0b01000#5 }) ∧
  decode (.seq 7#5) = .ok .cs8

/-- 41_commutation.md R121, R130: the normal path of COMMUTATE, in any state: the events in order with a deadtime between every
two electrical transitions, exactly the target high side on, and the answer `cfault = 0`. The duty is passed unchecked (R133; above
`MAX_DUTY` log 12);
the one indivisible step that writes `seq` is the model's choice (log 18), the order of the commands D11. -/
def Obligations.CommutateAppliesTheStepWithDeadtimes : Prop :=
  ∀ (s : State) (i : StepIndex) (duty dead : Word) (h l p q : Phase) (off : List Event),
    s.env.pinLevel .estop = true → s.env.afterPin.pinLevel .fault = false →
    commutationTable i = (h, l) → dead = s.config.deadTimeUs →
    p ≠ h → q ≠ h → p.code.toNat < q.code.toNat →
    (s.motor.currentLowSide = none → off = []) →
    (∀ k, s.motor.currentLowSide = some k → off = [.setLs k false 0#32]) →
    ∃ image : DriverImage,
      exec (.commutate (stepCode i) duty) s = .next { s with
        motor := { s.motor with currentHighSide := some h, currentLowSide := some l }
        driver := image
        trace := s.trace ++ ([.rdPin .estop true, .rdPin .fault false] ++ off ++
          [.dlyUs dead, .setHs p false, .setHs q false, .dlyUs dead, .setHs h true, .dlyUs dead, .setLs l true duty])
        env := s.env.afterPin.afterPin
        bus := { s.bus with reqAnswer := some false }
        seq := 0b01000#5 } ∧
      (∀ k, image.hsOn.get k = decide (k = h)) ∧
      (∀ k, image.lsEn.get k =
        if k = l then true else if s.motor.currentLowSide = some k then false else s.driver.lsEn.get k) ∧
      (∀ k, image.lsDuty.get k =
        if k = l then duty else if s.motor.currentLowSide = some k then 0#32 else s.driver.lsDuty.get k)

/-- 41_commutation.md R121, property P3: the fault path of COMMUTATE: all off, both fields `None`, no delay, the answer
`cfault = 1`. That the request does this in one indivisible step and leaves HENTER in `seq` is the model's choice (log 18);
that a fault leads to HENTER is D12 (log 17), the order of the commands D10. -/
def Obligations.CommutateOnFaultForcesTheSafeState : Prop :=
  ∀ (s : State) (i : StepIndex) (duty : Word) (e x : Bool), e = s.env.pinLevel .estop →
    x = s.env.afterPin.pinLevel .fault → e = false ∨ x = true →
      exec (.commutate (stepCode i) duty) s = .next { s with
        motor := { s.motor with currentHighSide := none, currentLowSide := none }
        driver := { hsOn := ⟨false, false, false⟩, lsEn := ⟨false, false, false⟩, lsDuty := ⟨0#32, 0#32, 0#32⟩ }
        trace := s.trace ++ [.rdPin .estop e, .rdPin .fault x,
          .setHs .A false, .setHs .B false, .setHs .C false,
          .setLs .A false 0#32, .setLs .B false 0#32, .setLs .C false 0#32]
        env := s.env.afterPin.afterPin
        bus := { s.bus with reqAnswer := some true }
        seq := 0b10000#5 }

/-- 41_commutation.md R121, 00_scope.md R3: the eight micro-operations, run one after the other from CS1, do what the request
`COMMUTATE stepIndex, pwmLevel` does in one step, but for the answer line of the bus; on a fault CS1 alone does. That the
request is one indivisible step that writes `seq` is the model's choice (log 18). -/
def Obligations.EightMicroOpsRefineCommutate : Prop :=
  ∀ s : State, s.Quiet → s.seq = 0b00000#5 →
    (s.env.pinLevel .estop = true ∧ s.env.afterPin.pinLevel .fault = false →
      ∃ t, core.run 8 s = .next t ∧
        exec (.commutate (stepCode s.motor.stepIndex) s.motor.pwmLevel) s =
          .next { t with bus := { s.bus with reqAnswer := some false } }) ∧
    (s.env.pinLevel .estop = false ∨ s.env.afterPin.pinLevel .fault = true →
      ∃ t, core.run 1 s = .next t ∧
        exec (.commutate (stepCode s.motor.stepIndex) s.motor.pwmLevel) s =
          .next { t with bus := { s.bus with reqAnswer := some true } })

/-! ## Debounce and repeat -/

/-- 42_debounce.md R150, R151: the twelve rows of the transition table (D13), for either button and any state; the pin is
drawn before the clock (D14, log 16). -/
def Obligations.ButtonPollFollowsTheTransitionTable : Prop :=
  ∀ (b : Button) (s : State) (raw : Bool) (now : Word) (o : ButtonInput) (c : Config),
    raw = s.env.pinLevel b.pin → now = s.env.afterPin.clockNow → o = s.button b → c = s.config →
    ∃ (r : ButtonInput) (evt : Bool),
      exec (.btnpoll b) s = .next (({ s with
        env := s.env.afterPin.afterClock
        trace := s.trace ++ [Event.rdPin b.pin raw, Event.rdTime now]
        bus := { s.bus with reqAnswer := some evt } }).setButton b r) ∧
      (o.trans = false → o.stableState = true → raw = true → r = o ∧ evt = false) ∧
      (o.trans = false → o.stableState = false → raw = false →
        (now - o.lastEventTime).toNat < c.repeatMs.toNat → r = o ∧ evt = false) ∧
      (o.trans = false → o.stableState = false → raw = false →
        c.repeatMs.toNat ≤ (now - o.lastEventTime).toNat → r = { o with lastEventTime := now } ∧ evt = true) ∧
      (o.trans = false → raw ≠ o.stableState → 0 < c.debounceMs.toNat →
        r = { o with trans := true, lastChangeTime := now } ∧ evt = false) ∧
      (o.trans = false → o.stableState = true → raw = false → c.debounceMs.toNat = 0 →
        r = { o with stableState := false, lastChangeTime := now, lastEventTime := now } ∧ evt = true) ∧
      (o.trans = false → o.stableState = false → raw = true → c.debounceMs.toNat = 0 →
        r = { o with stableState := true, lastChangeTime := now } ∧ evt = false) ∧
      (o.trans = true → raw ≠ o.stableState → (now - o.lastChangeTime).toNat < c.debounceMs.toNat →
        r = o ∧ evt = false) ∧
      (o.trans = true → o.stableState = true → raw = false →
        c.debounceMs.toNat ≤ (now - o.lastChangeTime).toNat →
        r = { stableState := false, trans := false, lastChangeTime := now, lastEventTime := now } ∧ evt = true) ∧
      (o.trans = true → o.stableState = false → raw = true →
        c.debounceMs.toNat ≤ (now - o.lastChangeTime).toNat →
        r = { o with stableState := true, trans := false, lastChangeTime := now } ∧ evt = false) ∧
      (o.trans = true → o.stableState = true → raw = true → r = { o with trans := false } ∧ evt = false) ∧
      (o.trans = true → o.stableState = false → raw = false →
        (now - o.lastEventTime).toNat < c.repeatMs.toNat → r = { o with trans := false } ∧ evt = false) ∧
      (o.trans = true → o.stableState = false → raw = false →
        c.repeatMs.toNat ≤ (now - o.lastEventTime).toNat →
        r = { o with trans := false, lastEventTime := now } ∧ evt = true)

/-- 42_debounce.md R154, property P4: polled once a millisecond, a press is answered at the poll `DEBOUNCE_MS` after the first
differing sample and at no earlier one, wherever on the wrapping clock it starts. -/
def Obligations.PressIsAnsweredAfterDebounceMs : Prop :=
  ∀ (b : Button) (s : State) (start : Word) (pins : List Bool) (times : List Word) (d : Nat),
    d = s.config.debounceMs.toNat →
    (s.button b).stableState = true → (s.button b).trans = false →
    s.env.pinSamples = List.replicate (d + 1) false ++ pins →
    s.env.clockReadings = (List.range (d + 1)).map (fun k => start + BitVec.ofNat 32 k) ++ times →
      pollAnswers b (d + 1) s = List.replicate d false ++ [true]

/-- 42_debounce.md R152, R154, property P5: after an event at `start`, a button held and polled once a millisecond is answered
exactly at the multiples of `REPEAT_MS`. -/
def Obligations.HeldButtonRepeatsEveryRepeatMs : Prop :=
  ∀ (b : Button) (s : State) (start : Word) (pins : List Bool) (times : List Word) (n : Nat),
    1 ≤ s.config.repeatMs.toNat →
    (s.button b).stableState = false → (s.button b).lastEventTime = start →
    s.env.pinSamples = List.replicate n false ++ pins →
    s.env.clockReadings = (List.range n).map (fun k => start + BitVec.ofNat 32 (k + 1)) ++ times →
      pollAnswers b n s = (List.range n).map (fun k => (k + 1) % s.config.repeatMs.toNat == 0)

/-- 10_state.md R32, R33 (D19): `lastChangeTime` is not read while `trans = 0` nor `lastEventTime` while the button is
released: whatever stands there, the answer is the same, and so is the record as far as a later poll can read it. -/
def Obligations.UnwrittenTimestampsAreNeverRead : Prop :=
  ∀ (b : Button) (s : State) (lc le : Word),
    ((s.button b).trans = true → lc = (s.button b).lastChangeTime) →
    ((s.button b).stableState = false → le = (s.button b).lastEventTime) →
    ∃ t u : State,
      exec (.btnpoll b) s = .next t ∧
      exec (.btnpoll b) (s.setButton b { s.button b with lastChangeTime := lc, lastEventTime := le }) = .next u ∧
      t.bus.reqAnswer = u.bus.reqAnswer ∧ (t.button b).stableState = (u.button b).stableState ∧
      (t.button b).trans = (u.button b).trans ∧
      ((t.button b).trans = true → (t.button b).lastChangeTime = (u.button b).lastChangeTime) ∧
      ((t.button b).stableState = false → (t.button b).lastEventTime = (u.button b).lastEventTime)

/-! ## Control Loop -/

/-- 43_control_loop.md R171, R172 (D15): the wait starts at 0 and is over when `elapsed >= stepPeriodMs`. -/
def Obligations.WaitStartsAtZeroAndEndsAtThePeriod : Prop :=
  ∀ s : State,
    exec .winit s = .next { s with elapsed := 0#32, seq := 0b01001#5 } ∧
    (s.motor.stepPeriodMs.toNat ≤ s.elapsed.toNat → exec .wchk s = .next { s with seq := 0b01110#5 }) ∧
    (s.elapsed.toNat < s.motor.stepPeriodMs.toNat → exec .wchk s = .next { s with seq := 0b01010#5 })

/-- 43_control_loop.md R174, R182 (D16): WINC does what BTNPOLL 0 does, and on an event the period becomes
`max(STEP_TIME_MIN_MS, period - STEP_TIME_STEP_MS)`, computed on integers. The bus lines are not used. -/
def Obligations.WincShortensThePeriodOnAnEvent : Prop :=
  ∀ s : State, ∃ (t : State) (period : Word),
    exec (.btnpoll .inc) s = .next t ∧
    (period.toNat : Int) =
      max (s.config.stepTimeMinMs.toNat : Int) (s.motor.stepPeriodMs.toNat - s.config.stepTimeStepMs.toNat) ∧
    exec .winc s = .next { t with
      bus := s.bus
      motor := { s.motor with
        stepPeriodMs := if t.bus.reqAnswer = some true then period else s.motor.stepPeriodMs }
      seq := 0b01100#5 }

/-- 43_control_loop.md R175, R183 (D16): the same for WDEC with `min(STEP_TIME_MAX_MS, period + STEP_TIME_STEP_MS)`. -/
def Obligations.WdecLengthensThePeriodOnAnEvent : Prop :=
  ∀ s : State, ∃ (t : State) (period : Word),
    exec (.btnpoll .dec) s = .next t ∧
    (period.toNat : Int) =
      min (s.config.stepTimeMaxMs.toNat : Int) (s.motor.stepPeriodMs.toNat + s.config.stepTimeStepMs.toNat) ∧
    exec .wdec s = .next { t with
      bus := s.bus
      motor := { s.motor with
        stepPeriodMs := if t.bus.reqAnswer = some true then period else s.motor.stepPeriodMs }
      seq := 0b01101#5 }

/-- 43_control_loop.md R176, R180 (D15, D17): the two sleeps. R176 says that the addition does not overflow; that it is taken
modulo `2^W` in states outside the ranges of R7 is the model's choice (log 13). -/
def Obligations.SleepsRecordAndCount : Prop :=
  ∀ s : State,
    exec .wsleep s = .next { s with
      trace := s.trace ++ [.dlyMs s.config.pollMs]
      elapsed := s.elapsed + s.config.pollMs
      seq := 0b01001#5 } ∧
    exec .hsleep s = .next { s with trace := s.trace ++ [.dlyMs s.config.faultPollMs], seq := 0b10001#5 }

/-- 43_control_loop.md R177: ADV advances the step modulo 6, issues no port command, and is the only instruction that writes
`stepIndex`. -/
def Obligations.AdvAloneAdvancesTheStep : Prop :=
  (∀ (s : State) (j : StepIndex), j.val = (s.motor.stepIndex.val + 1) % 6 →
    exec .adv s = .next { s with motor := { s.motor with stepIndex := j }, seq := 0b00000#5 }) ∧
  (∀ (i : Instr) (s t : State), exec i s = .next t → i ≠ .adv → t.motor.stepIndex = s.motor.stepIndex) ∧
  decode (.seq 14#5) = .ok .adv

/-- 43_control_loop.md R178, R181, 60_exceptions.md R226 (order of the commands: D10): HENTER and HEXIT force all off; nothing
saved is restored. -/
def Obligations.FaultHaltedForcesOffAtBothEnds : Prop :=
  ∀ (s : State) (i : Instr) (successor : BitVec 5),
    (i = .henter ∧ successor = 0b10001#5) ∨ (i = .hexit ∧ successor = 0b00000#5) →
      exec i s = .next { s with
        motor := { s.motor with currentHighSide := none, currentLowSide := none }
        driver := { hsOn := ⟨false, false, false⟩, lsEn := ⟨false, false, false⟩, lsDuty := ⟨0#32, 0#32, 0#32⟩ }
        trace := s.trace ++ [.setHs .A false, .setHs .B false, .setHs .C false,
          .setLs .A false 0#32, .setLs .B false 0#32, .setLs .C false 0#32]
        seq := successor }

/-- 43_control_loop.md R185: with healthy pins, released idle buttons and `n = ceil(stepPeriodMs / POLL_MS)`, the wait takes
exactly `n` poll ticks of five micro-operations, one last WCHK, and `n` sleeps of `POLL_MS`. Counting the wait by `elapsed`
is D15 (log 16). -/
def Obligations.WaitTakesCeilPeriodOverPollTicks : Prop :=
  ∀ (s : State) (n : Nat) (pins : List Bool),
    s.RangeInv → s.seq = 0b01000#5 →
    n = (s.motor.stepPeriodMs.toNat + s.config.pollMs.toNat - 1) / s.config.pollMs.toNat →
    s.btnInc.stableState = true → s.btnDec.stableState = true → s.btnInc.trans = false → s.btnDec.trans = false →
    s.env.pinSamples = (List.replicate n [true, false, true, true]).flatten ++ pins →
    ∃ (t : State) (es : List Event),
      core.run (1 + 5 * n + 1) s = .next t ∧ t.seq = 0b01110#5 ∧ t.elapsed.toNat = n * s.config.pollMs.toNat ∧
      t.motor = s.motor ∧ t.btnInc = s.btnInc ∧ t.btnDec = s.btnDec ∧ t.driver = s.driver ∧ t.env.pinSamples = pins ∧
      t.trace = s.trace ++ es ∧ es.count (.dlyMs s.config.pollMs) = n ∧ es.length = 7 * n

/-- 43_control_loop.md R172, R185, 92_eei_decisions.md D22: under `ENV_CLOCK` and an `ENV_DELAY` that never cuts a sleep short,
the same wait (counted by `elapsed`, D15, log 16) lasts at least `stepPeriodMs` milliseconds of true time. -/
def Obligations.WaitLastsAtLeastThePeriodInTrueTime : Prop :=
  ∀ (s : State) (n : Nat) (pins : List Bool),
    s.RangeInv → s.seq = 0b01000#5 →
    n = (s.motor.stepPeriodMs.toNat + s.config.pollMs.toNat - 1) / s.config.pollMs.toNat →
    s.btnInc.stableState = true → s.btnDec.stableState = true → s.btnInc.trans = false → s.btnDec.trans = false →
    s.env.pinSamples = (List.replicate n [true, false, true, true]).flatten ++ pins →
    ∃ (t : State) (es : List Event),
      core.run (1 + 5 * n + 1) s = .next t ∧ t.seq = 0b01110#5 ∧ t.trace = s.trace ++ es ∧
      ∀ lo hi now final : Int, 0 ≤ lo → EnvTimed lo hi final now es → now + s.motor.stepPeriodMs.toNat ≤ final

/-- 43_control_loop.md R186, property P8: with healthy pins and released idle buttons, `k` iterations of Running take
`5 * n + 11` micro-operations each; at the WINIT of iteration `j` the two phases of step `stepIndex + j mod 6` are driven, and
after the last iteration the step is `stepIndex + k mod 6`. The shape of the wait is D15 (log 16). -/
def Obligations.IterationsVisitTheStepsInOrder : Prop :=
  ∀ (s : State) (n k : Nat) (pins : List Bool),
    s.RangeInv → s.seq = 0b00000#5 →
    n = (s.motor.stepPeriodMs.toNat + s.config.pollMs.toNat - 1) / s.config.pollMs.toNat →
    s.btnInc.stableState = true → s.btnDec.stableState = true → s.btnInc.trans = false → s.btnDec.trans = false →
    s.env.pinSamples =
      (List.replicate k ([true, false] ++ (List.replicate n [true, false, true, true]).flatten)).flatten ++ pins →
    (∀ (j : Nat) (i : StepIndex), j < k → i.val = (s.motor.stepIndex.val + j) % 6 →
      ∃ u : State, core.run (j * (5 * n + 11) + 8) s = .next u ∧ u.seq = 0b01000#5 ∧ u.motor.stepIndex = i ∧
        u.motor.currentHighSide = some (commutationTable i).1 ∧ u.motor.currentLowSide = some (commutationTable i).2) ∧
    ∃ t : State, core.run (k * (5 * n + 11)) s = .next t ∧ t.seq = 0b00000#5 ∧
      t.motor.stepIndex.val = (s.motor.stepIndex.val + k) % 6 ∧ t.motor.stepPeriodMs = s.motor.stepPeriodMs ∧
      t.env.pinSamples = pins

/-- 60_exceptions.md R226, 43_control_loop.md R186, property P7: a fault met in the wait, `faulty.length` more faulty polls,
then a clear one: the machine is back at CS1 with the same step, duty, period and button state, everything off. Sampling
before sleeping in FaultHalted is D17 (log 16). -/
def Obligations.FaultInTheWaitRecoversAtTheSameStep : Prop :=
  ∀ (s : State) (first : Bool × Bool) (faulty : List (Bool × Bool)) (pins : List Bool),
    s.Quiet → s.seq = 0b01010#5 →
    (∀ q ∈ first :: faulty, q.1 = false ∨ q.2 = true) →
    s.env.pinSamples = ((first :: faulty).map (fun q => [q.1, q.2])).flatten ++ [true, false] ++ pins →
    ∃ t : State,
      core.run (2 + 2 * faulty.length + 2) s = .next t ∧ t.seq = 0b00000#5 ∧ t.halted = false ∧
      t.motor = { s.motor with currentHighSide := none, currentLowSide := none } ∧
      t.btnInc = s.btnInc ∧ t.btnDec = s.btnDec ∧ t.elapsed = s.elapsed ∧ t.config = s.config ∧
      t.driver = DriverImage.allOff ∧ t.env.pinSamples = pins ∧
      (t.trace.filter (fun e => e == .dlyMs s.config.faultPollMs)).length =
        (s.trace.filter (fun e => e == .dlyMs s.config.faultPollMs)).length + faulty.length

/-- 43_control_loop.md R184: with a legal `seq` there is a next state after every number of steps, under every input, a reset
request among them; the program never stops. (A word waiting on the bus or the port is the model's own, log 5.) -/
def Obligations.TheProgramNeverStops : Prop :=
  ∀ s : State, s.bus.req = none → s.bus.cmd = none → s.SeqLegal →
    ∀ n, ∃ t : State, core.run n s = .next t ∧ t.bus.req = none ∧ t.bus.cmd = none ∧ t.SeqLegal

/-! ## The step, decoding and encoding -/

/-- 00_scope.md R3, 30_encoding.md R80, R91 to R93: without a reset request the step runs what it decodes: a word on the
command port, else one on the request bus, else `seq` (the order of the places is the model's choice, log 5). A reserved
code in `seq` is refused whatever waits, and a reserved word is refused. -/
def Obligations.StepRunsTheDecodedInstruction : Prop :=
  ∀ (s : State), s.env.rst = false →
    (∀ (w : BitVec 38) (i : Instr), s.SeqLegal → s.bus.cmd = some w → decode (.port w) = .ok i →
      step s = exec i { s with bus := { s.bus with cmd := none } }) ∧
    (∀ (w : BitVec 37) (i : Instr), s.SeqLegal → s.bus.cmd = none → s.bus.req = some w → decode (.request w) = .ok i →
      step s = exec i { s with bus := { s.bus with req := none } }) ∧
    (∀ i : Instr, s.bus.cmd = none → s.bus.req = none → decode (.seq s.seq) = .ok i → step s = exec i s) ∧
    (∀ e, decode (.seq s.seq) = .error e → step s = .refused (.reservedSeqCode s.seq)) ∧
    (∀ (w : BitVec 38) (e : DecodeError), s.SeqLegal → s.bus.cmd = some w → decode (.port w) = .error e →
      step s = .refused (.reservedCommandWord w)) ∧
    (∀ (w : BitVec 37) (e : DecodeError), s.SeqLegal → s.bus.cmd = none → s.bus.req = some w →
      decode (.request w) = .error e → step s = .refused (.reservedRequestWord w))

/-- 95_test_vectors.md section 2.8: words written out from the encodings of 30_encoding.md R84, R85, R88. -/
def Obligations.WordsOfTheSpecDecode : Prop :=
  decode (.seq 0b00000#5) = .ok .cs1 ∧ decode (.seq 0b01101#5) = .ok .wsleep ∧ decode (.seq 0b10011#5) = .ok .hexit ∧
    decode (.request 0x0000000000#37) = .ok .fchk ∧ decode (.request 0x0800000000#37) = .ok .safeoff ∧
    decode (.request 0x1200000080#37) = .ok (.commutate 2#3 128#32) ∧
    decode (.request 0x1900000000#37) = .ok (.btnpoll .dec) ∧
    decode (.port 0x0300000000#38) = .ok (.seths 1#2 true) ∧
    decode (.port 0x0D00000080#38) = .ok (.setls 2#2 true 128#32) ∧
    decode (.port 0x1600000000#38) = .ok (.rdpin .btnDec) ∧ decode (.port 0x1800000000#38) = .ok .rdtime ∧
    decode (.port 0x20FFFFFFFF#38) = .ok (.dlyms 0xFFFFFFFF#32) ∧ decode (.port 0x2800000005#38) = .ok (.dlyus 5#32)

/-- 30_encoding.md R84 to R89: decoding the word of a well-formed instruction gives it back, every operand whole. -/
def Obligations.DecodeOfEncodeIsTheInstruction : Prop :=
  ∀ i : Instr, i.wellFormed = true → decode (encode i) = .ok i

/-- 30_encoding.md R84 to R93: a word that decodes is the one word of a well-formed instruction. -/
def Obligations.DecodedWordsAreTheEncodings : Prop :=
  ∀ (c : CodeWord) (i : Instr), decode c = .ok i → i.wellFormed = true ∧ encode i = c

/-- 30_encoding.md R91, R92, R93 (D23): exactly these words are refused. -/
def Obligations.ReservedWordsAreExactlyTheListed : Prop :=
  (∀ c : BitVec 5, (∃ e, decode (.seq c) = .error e) ↔ c.toNat = 15 ∨ 20 ≤ c.toNat) ∧
  (∀ w : BitVec 37, (∃ e, decode (.request w) = .error e) ↔
    (w.extractLsb 36 35 = 2#2 ∧ 6 ≤ (w.extractLsb 34 32).toNat) ∨
    ((w.extractLsb 36 35 = 0#2 ∨ w.extractLsb 36 35 = 1#2) ∧ (w.extractLsb 34 32 ≠ 0#3 ∨ w.extractLsb 31 0 ≠ 0#32)) ∨
    (w.extractLsb 36 35 = 3#2 ∧ (w.extractLsb 34 33 ≠ 0#2 ∨ w.extractLsb 31 0 ≠ 0#32))) ∧
  (∀ w : BitVec 38, (∃ e, decode (.port w) = .error e) ↔
    (6 ≤ (w.extractLsb 37 35).toNat) ∨
    ((w.extractLsb 37 35 = 0#3 ∨ w.extractLsb 37 35 = 1#3) ∧ w.extractLsb 34 33 = 3#2) ∨
    (w.extractLsb 37 35 = 0#3 ∧ w.extractLsb 31 0 ≠ 0#32) ∨
    (w.extractLsb 37 35 = 2#3 ∧ (w.extractLsb 32 32 ≠ 0#1 ∨ w.extractLsb 31 0 ≠ 0#32)) ∨
    ((w.extractLsb 37 35 = 3#3 ∨ w.extractLsb 37 35 = 4#3 ∨ w.extractLsb 37 35 = 5#3) ∧
      (w.extractLsb 34 33 ≠ 0#2 ∨ w.extractLsb 32 32 ≠ 0#1)) ∨
    (w.extractLsb 37 35 = 3#3 ∧ w.extractLsb 31 0 ≠ 0#32))

/-! ## Rules of the whole machine -/

/-- 10_state.md R23 to R37, 42_debounce.md R156, 60_exceptions.md R231: which instructions may write which element. -/
def Obligations.OnlyTheNamedInstructionsWriteAnElement : Prop :=
  ∀ (i : Instr) (s t : State), exec i s = .next t →
    t.config = s.config ∧ t.motor.pwmLevel = s.motor.pwmLevel ∧
    t.env.rst = s.env.rst ∧ t.bus.req = s.bus.req ∧ t.bus.cmd = s.bus.cmd ∧
    (t.motor.stepPeriodMs ≠ s.motor.stepPeriodMs → i = .winc ∨ i = .wdec) ∧
    (t.motor.stepIndex ≠ s.motor.stepIndex → i = .adv) ∧
    (t.elapsed ≠ s.elapsed → i = .winit ∨ i = .wsleep) ∧
    (t.btnInc ≠ s.btnInc → i = .winc ∨ i = .btnpoll .inc) ∧
    (t.btnDec ≠ s.btnDec → i = .wdec ∨ i = .btnpoll .dec) ∧
    (t.motor.currentHighSide ≠ s.motor.currentHighSide →
      i ∈ [.cs1, .cs6, .wfault, .henter, .hexit, .safeoff] ∨ ∃ k d, i = .commutate k d) ∧
    (t.motor.currentLowSide ≠ s.motor.currentLowSide →
      i ∈ [.cs1, .cs2, .cs8, .wfault, .henter, .hexit, .safeoff] ∨ ∃ k d, i = .commutate k d) ∧
    (t.seq ≠ s.seq → (∃ c, encode i = .seq c) ∨ ∃ k d, i = .commutate k d) ∧
    (t.bus ≠ s.bus → ∀ c, encode i ≠ .seq c)

/-- 44_driver_port.md R207: which micro-operation issues which command, with which operands. -/
def Obligations.EachMicroOpIssuesOnlyItsCommands : Prop :=
  ∀ (i : Instr) (c : BitVec 5) (s t : State) (es : List Event),
    encode i = .seq c → exec i s = .next t → t.trace = s.trace ++ es →
    (∀ p, Event.setHs p false ∈ es → i ∈ [.cs1, .wfault, .henter, .hexit] ∨ (i = .cs4 ∧ p ≠ s.targetHigh)) ∧
    (∀ p, Event.setHs p true ∈ es → i = .cs6 ∧ p = s.targetHigh) ∧
    (∀ p d, Event.setLs p false d ∈ es →
      d = 0#32 ∧ (i ∈ [.cs1, .wfault, .henter, .hexit] ∨ (i = .cs2 ∧ s.motor.currentLowSide = some p))) ∧
    (∀ p d, Event.setLs p true d ∈ es → i = .cs8 ∧ p = s.targetLow ∧ d = s.motor.pwmLevel) ∧
    (∀ v, Event.rdPin .estop v ∈ es ∨ Event.rdPin .fault v ∈ es → i ∈ [.cs1, .wfault, .hpoll]) ∧
    (∀ v, Event.rdPin .btnInc v ∈ es → i = .winc) ∧ (∀ v, Event.rdPin .btnDec v ∈ es → i = .wdec) ∧
    (∀ v, Event.rdTime v ∈ es → i = .winc ∨ i = .wdec) ∧
    (∀ n, Event.dlyUs n ∈ es → i ∈ [.cs3, .cs5, .cs7] ∧ n = s.config.deadTimeUs) ∧
    (∀ n, Event.dlyMs n ∈ es →
      (i = .wsleep ∧ n = s.config.pollMs) ∨ (i = .hsleep ∧ n = s.config.faultPollMs))

/-- 44_driver_port.md R208, 20_memory.md R67: no event is ever taken back, and the image is the fold over the events. -/
def Obligations.HistoryGrowsAndTheImageIsItsFold : Prop :=
  ∀ s t : State, s.env.rst = false → step s = .next t →
    ∃ es, t.trace = s.trace ++ es ∧ t.driver = es.foldl DriverImage.apply s.driver

/-- 60_exceptions.md R224, R226, R235, 30_encoding.md R96: `halted` rises only from CS1 or WFAULT on a faulty sample, to HENTER,
and falls only from HEXIT, to CS1. -/
def Obligations.HaltedChangesOnlyAtEntryAndReturn : Prop :=
  ∀ s t : State, s.Quiet → step s = .next t →
    (s.halted = false → t.halted = true →
      (s.seq = SeqCode.CS1 ∨ s.seq = SeqCode.WFAULT) ∧ t.seq = SeqCode.HENTER ∧
        (s.env.pinLevel .estop = false ∨ s.env.afterPin.pinLevel .fault = true)) ∧
    (s.halted = true → t.halted = false → s.seq = SeqCode.HEXIT ∧ t.seq = SeqCode.CS1)

/-! ## Invariants -/

/-- 10_state.md R28, R42, 41_commutation.md R132: the driver invariant is kept by every step. -/
def Obligations.StepKeepsTheDriveInvariant : Prop :=
  ∀ s t : State, s.DriveInv → step s = .next t → t.DriveInv

/-- 41_commutation.md R132, 70_reset_and_hazards.md R253: under ENV_BOOT_ALLOFF the driver invariant holds after reset, for
every configuration. -/
def Obligations.DriveInvariantHoldsAfterReset : Prop :=
  ∀ (c : Config) (d : DriverImage) (e : Environment), e.rst = false → EnvBootAllOff (State.atReset c d e) →
    (State.atReset c d e).DriveInv

/-- 10_state.md R28, R42, 43_control_loop.md R184: along every run from a state of the driver invariant with a legal `seq`
there is always a next state, never a shoot-through, and everything is off in FaultHalted. -/
def Obligations.EveryRunIsFreeOfShootThrough : Prop :=
  ∀ s : State, s.DriveInv → s.SeqLegal → ∀ n, ∃ t,
    core.run n s = .next t ∧ t.driver.NoShootThrough ∧ t.motor.FieldsDistinct ∧
      (t.ctl = .faultHalted → t.driver = DriverImage.allOff)

/-- 41_commutation.md R130, 60_exceptions.md R227, 70_reset_and_hazards.md R262: kept by every step: every on command of the
history is preceded by its deadtimes, its off commands and a clear sample of both safety inputs. -/
def Obligations.StepKeepsTheTraceInvariant : Prop :=
  ∀ s t : State, s.TraceInv → step s = .next t → t.TraceInv

/-- The invariant of the history holds at reset, for every configuration and every driver image: no premise is needed. -/
def Obligations.TraceInvariantHoldsAfterReset : Prop :=
  State.reset.TraceInv ∧ ∀ (c : Config) (d : DriverImage) (e : Environment), e.rst = false → (State.atReset c d e).TraceInv

/-- 41_commutation.md R130, 70_reset_and_hazards.md R262: along every run from reset, under every configuration, image and
environment, no switch is ever turned on unguarded. -/
def Obligations.NoSwitchIsEverTurnedOnUnguarded : Prop :=
  ∀ (c : Config) (d : DriverImage) (e : Environment), e.rst = false → ∀ n, ∃ t,
    core.run n (State.atReset c d e) = .next t ∧ t.TraceGuarded

/-- 10_state.md R26, R27, R36, property P6: the ranges of the numbers are kept by every step. -/
def Obligations.StepKeepsTheRangeInvariant : Prop :=
  ∀ s t : State, s.RangeInv → step s = .next t → t.RangeInv

/-- The ranges hold at reset, for the machine's free parameters and for every configuration of 00_scope.md R7. -/
def Obligations.RangeInvariantHoldsAfterReset : Prop :=
  State.reset.RangeInv ∧
    ∀ (c : Config) (d : DriverImage) (e : Environment), c.Ok → e.rst = false → (State.atReset c d e).RangeInv

/-- 10_state.md R36, 30_encoding.md R93: within the ranges the sleep counter does not overflow, and no low-side command carries
a duty above `MAX_DUTY`. -/
def Obligations.CounterDoesNotOverflowAndDutyIsInRange : Prop :=
  ∀ s t : State, s.RangeInv → step s = .next t →
    (s.seq = SeqCode.WSLEEP → t.elapsed.toNat = s.elapsed.toNat + s.config.pollMs.toNat) ∧
    (∀ es p en d, t.trace = s.trace ++ es → Event.setLs p en d ∈ es → d.toNat ≤ s.config.maxDuty.toNat)
end

