-- ==== Sys2Proof/Laws/Config.lean ====
section
/-! SUPPORT. The machine's parameters meet the constraints of spec/00_scope.md R7, and every record that meets them is a
possible value of the parameters (log 1). -/

namespace Sys2Proof

theorem Config.toNat_ofNat_of_le {n : Nat} {w : Word} (h : n ≤ w.toNat) : (BitVec.ofNat 32 n).toNat = n := by
  rw [BitVec.toNat_ofNat, Nat.mod_eq_of_lt (Nat.lt_of_le_of_lt h w.isLt)]

theorem Config.withinConstraints_ok (r : Config) : r.withinConstraints.Ok := by
  have hp := r.pollMs.isLt
  have hm := r.stepTimeMaxMs.isLt
  have hi := r.stepTimeInitMs.isLt
  have hd := r.maxDuty.isLt
  constructor <;> simp only [Config.withinConstraints, BitVec.toNat_ofNat] <;> omega

/-- Nothing is lost: a configuration that meets the constraints is left as it is. -/
theorem Config.withinConstraints_of_ok {r : Config} (h : r.Ok) : r.withinConstraints = r := by
  obtain ⟨h1, h2, h3, h4, h5⟩ := h
  have e1 : max 1 r.pollMs.toNat = r.pollMs.toNat := by omega
  have e2 : min r.stepTimeMaxMs.toNat (2 ^ 32 - 1 - r.pollMs.toNat) = r.stepTimeMaxMs.toNat := by omega
  have e3 : min r.stepTimeMinMs.toNat r.stepTimeMaxMs.toNat = r.stepTimeMinMs.toNat := by omega
  have e4 : max r.stepTimeMinMs.toNat (min r.stepTimeInitMs.toNat r.stepTimeMaxMs.toNat) = r.stepTimeInitMs.toNat := by
    omega
  have e5 : min r.pwmInit.toNat r.maxDuty.toNat = r.pwmInit.toNat := by omega
  unfold Config.withinConstraints
  simp only [e1, e2, e3, e4, e5, BitVec.ofNat_toNat, BitVec.setWidth_eq]

theorem Config.params_ok : Config.params.Ok := Config.withinConstraints_ok _

end Sys2Proof
end

