-- ==== Sys2Proof/Laws/Encoding.lean ====
section
/-! SUPPORT. The fields of a word that was put together are the fields it was put together from, and a word is its fields. -/

namespace Sys2Proof

@[simp] theorem phaseOfCode_code (p : Phase) : phaseOfCode p.code = some p := by cases p <;> rfl

theorem phaseOfCode_eq_some {sel : BitVec 2} {p : Phase} : phaseOfCode sel = some p ↔ sel = p.code := by
  revert sel; cases p <;> decide

theorem phaseOfCode_eq_none {sel : BitVec 2} : phaseOfCode sel = none ↔ sel = 3#2 := by
  revert sel; decide

@[simp] theorem phaseOfCode_isSome (sel : BitVec 2) : (phaseOfCode sel).isSome = legalPhase sel := by
  revert sel; decide

@[simp] theorem stepOfCode_isSome (arg : BitVec 3) : (stepOfCode arg).isSome = legalStep arg := by
  revert arg; decide

@[simp] theorem stepOfCode_code (i : StepIndex) : stepOfCode (stepCode i) = some i := by revert i; decide

@[simp] theorem pinOfCode_code (p : Pin) : pinOfCode p.code = p := by cases p <;> rfl

theorem code_pinOfCode (sel : BitVec 2) : (pinOfCode sel).code = sel := by revert sel; decide

@[simp] theorem buttonOfCode_code (b : Button) : buttonOfCode b.code = b := by cases b <;> rfl

theorem code_buttonOfCode (c : BitVec 1) : (buttonOfCode c).code = c := by revert c; decide

@[simp] theorem boolCode_beq (v : Bool) : (boolCode v == 1#1) = v := by cases v <;> rfl

theorem boolCode_of_beq (f : BitVec 1) : boolCode (f == 1#1) = f := by revert f; decide

/-! ## Requests -/

@[simp] theorem reqFn_reqWord (fn : BitVec 2) (arg : BitVec 3) (duty : Word) : reqFn (reqWord fn arg duty) = fn := by
  apply BitVec.eq_of_getLsbD_eq
  intro i hi
  simp only [reqFn, reqWord, BitVec.getLsbD_extractLsb', BitVec.getLsbD_append]
  simp [hi, show ¬ 35 + i < 32 by omega, show 35 + i - 32 = 3 + i by omega]

@[simp] theorem reqArg_reqWord (fn : BitVec 2) (arg : BitVec 3) (duty : Word) : reqArg (reqWord fn arg duty) = arg := by
  apply BitVec.eq_of_getLsbD_eq
  intro i hi
  simp only [reqArg, reqWord, BitVec.getLsbD_extractLsb', BitVec.getLsbD_append]
  simp [hi]

@[simp] theorem reqDuty_reqWord (fn : BitVec 2) (arg : BitVec 3) (duty : Word) :
    reqDuty (reqWord fn arg duty) = duty := by
  apply BitVec.eq_of_getLsbD_eq
  intro i hi
  simp only [reqDuty, reqWord, BitVec.getLsbD_extractLsb', BitVec.getLsbD_append]
  simp [hi]

theorem reqWord_fields (w : BitVec 37) : reqWord (reqFn w) (reqArg w) (reqDuty w) = w := by
  apply BitVec.eq_of_getLsbD_eq
  intro i hi
  simp only [reqFn, reqArg, reqDuty, reqWord, BitVec.getLsbD_extractLsb', BitVec.getLsbD_append]
  by_cases h : i < 32
  · simp [h]
  · by_cases h2 : i - 32 < 3
    · simp [h, h2, show 32 + (i - 32) = i by omega]
    · simp [h, h2, show 35 + (i - 32 - 3) = i by omega, show i - 32 - 3 < 2 by omega]

/-! ## Commands -/

@[simp] theorem cmdOp_cmdWord (op : BitVec 3) (sel : BitVec 2) (flag : BitVec 1) (val : Word) :
    cmdOp (cmdWord op sel flag val) = op := by
  apply BitVec.eq_of_getLsbD_eq
  intro i hi
  simp only [cmdOp, cmdWord, BitVec.getLsbD_extractLsb', BitVec.getLsbD_append]
  simp [hi, show ¬ 35 + i < 32 by omega, show ¬ 35 + i - 32 < 1 by omega, show ¬ 35 + i - 32 - 1 < 2 by omega,
    show 35 + i - 32 - 1 - 2 = i by omega]

@[simp] theorem cmdSel_cmdWord (op : BitVec 3) (sel : BitVec 2) (flag : BitVec 1) (val : Word) :
    cmdSel (cmdWord op sel flag val) = sel := by
  apply BitVec.eq_of_getLsbD_eq
  intro i hi
  simp only [cmdSel, cmdWord, BitVec.getLsbD_extractLsb', BitVec.getLsbD_append]
  simp [hi, show ¬ 33 + i < 32 by omega, show ¬ 33 + i - 32 < 1 by omega, show 33 + i - 32 - 1 = i by omega]

@[simp] theorem cmdFlag_cmdWord (op : BitVec 3) (sel : BitVec 2) (flag : BitVec 1) (val : Word) :
    cmdFlag (cmdWord op sel flag val) = flag := by
  apply BitVec.eq_of_getLsbD_eq
  intro i hi
  simp only [cmdFlag, cmdWord, BitVec.getLsbD_extractLsb', BitVec.getLsbD_append]
  simp [show i = 0 by omega]

@[simp] theorem cmdVal_cmdWord (op : BitVec 3) (sel : BitVec 2) (flag : BitVec 1) (val : Word) :
    cmdVal (cmdWord op sel flag val) = val := by
  apply BitVec.eq_of_getLsbD_eq
  intro i hi
  simp only [cmdVal, cmdWord, BitVec.getLsbD_extractLsb', BitVec.getLsbD_append]
  simp [hi]

theorem cmdWord_fields (w : BitVec 38) : cmdWord (cmdOp w) (cmdSel w) (cmdFlag w) (cmdVal w) = w := by
  apply BitVec.eq_of_getLsbD_eq
  intro i hi
  simp only [cmdOp, cmdSel, cmdFlag, cmdVal, cmdWord, BitVec.getLsbD_extractLsb', BitVec.getLsbD_append]
  by_cases h : i < 32
  · simp [h]
  · by_cases h1 : i - 32 < 1
    · simp [show i = 32 by omega]
    · by_cases h2 : i - 32 - 1 < 2
      · simp [h, h1, h2, show 33 + (i - 32 - 1) = i by omega]
      · simp [h, h1, h2, show 35 + (i - 32 - 1 - 2) = i by omega, show i - 32 - 1 - 2 < 3 by omega]

/-! ## The button selector inside `arg` -/

theorem btnArg_high (c : BitVec 1) : ((0b00#2 ++ c : BitVec 3)).extractLsb' 1 2 = 0#2 := by revert c; decide

theorem btnArg_low (c : BitVec 1) : ((0b00#2 ++ c : BitVec 3)).extractLsb' 0 1 = c := by revert c; decide

theorem btnArg_of_high {arg : BitVec 3} (h : arg.extractLsb' 1 2 = 0#2) : (0b00#2 ++ arg.extractLsb' 0 1 : BitVec 3) = arg := by
  revert h; revert arg; decide

end Sys2Proof
end

