-- ==== Sys2Proof/Laws/State.lean ====
section
/-! SUPPORT. What every one-field update of State leaves in every field: one lemma per field per update, true by rfl. -/

namespace Sys2Proof.Machine

variable (s : State)


/-! ### setHighSide -/

@[simp] theorem State.setHighSide_currentHighSide (o : Option Phase) : (s.setHighSide o).motor.currentHighSide = o := rfl
@[simp] theorem State.setHighSide_currentLowSide (o : Option Phase) : (s.setHighSide o).motor.currentLowSide = s.motor.currentLowSide := rfl
@[simp] theorem State.setHighSide_stepIndex (o : Option Phase) : (s.setHighSide o).motor.stepIndex = s.motor.stepIndex := rfl
@[simp] theorem State.setHighSide_pwmLevel (o : Option Phase) : (s.setHighSide o).motor.pwmLevel = s.motor.pwmLevel := rfl
@[simp] theorem State.setHighSide_stepPeriodMs (o : Option Phase) : (s.setHighSide o).motor.stepPeriodMs = s.motor.stepPeriodMs := rfl
@[simp] theorem State.setHighSide_btnInc (o : Option Phase) : (s.setHighSide o).btnInc = s.btnInc := rfl
@[simp] theorem State.setHighSide_btnDec (o : Option Phase) : (s.setHighSide o).btnDec = s.btnDec := rfl
@[simp] theorem State.setHighSide_seq (o : Option Phase) : (s.setHighSide o).seq = s.seq := rfl
@[simp] theorem State.setHighSide_elapsed (o : Option Phase) : (s.setHighSide o).elapsed = s.elapsed := rfl
@[simp] theorem State.setHighSide_config (o : Option Phase) : (s.setHighSide o).config = s.config := rfl
@[simp] theorem State.setHighSide_driver (o : Option Phase) : (s.setHighSide o).driver = s.driver := rfl
@[simp] theorem State.setHighSide_trace (o : Option Phase) : (s.setHighSide o).trace = s.trace := rfl
@[simp] theorem State.setHighSide_env (o : Option Phase) : (s.setHighSide o).env = s.env := rfl
@[simp] theorem State.setHighSide_bus (o : Option Phase) : (s.setHighSide o).bus = s.bus := rfl
@[simp] theorem State.setHighSide_button (o : Option Phase) (k : Button) : (s.setHighSide o).button k = s.button k := by cases k <;> rfl

/-! ### setLowSide -/

@[simp] theorem State.setLowSide_currentHighSide (o : Option Phase) : (s.setLowSide o).motor.currentHighSide = s.motor.currentHighSide := rfl
@[simp] theorem State.setLowSide_currentLowSide (o : Option Phase) : (s.setLowSide o).motor.currentLowSide = o := rfl
@[simp] theorem State.setLowSide_stepIndex (o : Option Phase) : (s.setLowSide o).motor.stepIndex = s.motor.stepIndex := rfl
@[simp] theorem State.setLowSide_pwmLevel (o : Option Phase) : (s.setLowSide o).motor.pwmLevel = s.motor.pwmLevel := rfl
@[simp] theorem State.setLowSide_stepPeriodMs (o : Option Phase) : (s.setLowSide o).motor.stepPeriodMs = s.motor.stepPeriodMs := rfl
@[simp] theorem State.setLowSide_btnInc (o : Option Phase) : (s.setLowSide o).btnInc = s.btnInc := rfl
@[simp] theorem State.setLowSide_btnDec (o : Option Phase) : (s.setLowSide o).btnDec = s.btnDec := rfl
@[simp] theorem State.setLowSide_seq (o : Option Phase) : (s.setLowSide o).seq = s.seq := rfl
@[simp] theorem State.setLowSide_elapsed (o : Option Phase) : (s.setLowSide o).elapsed = s.elapsed := rfl
@[simp] theorem State.setLowSide_config (o : Option Phase) : (s.setLowSide o).config = s.config := rfl
@[simp] theorem State.setLowSide_driver (o : Option Phase) : (s.setLowSide o).driver = s.driver := rfl
@[simp] theorem State.setLowSide_trace (o : Option Phase) : (s.setLowSide o).trace = s.trace := rfl
@[simp] theorem State.setLowSide_env (o : Option Phase) : (s.setLowSide o).env = s.env := rfl
@[simp] theorem State.setLowSide_bus (o : Option Phase) : (s.setLowSide o).bus = s.bus := rfl
@[simp] theorem State.setLowSide_button (o : Option Phase) (k : Button) : (s.setLowSide o).button k = s.button k := by cases k <;> rfl

/-! ### setStepIndex -/

@[simp] theorem State.setStepIndex_currentHighSide (i : StepIndex) : (s.setStepIndex i).motor.currentHighSide = s.motor.currentHighSide := rfl
@[simp] theorem State.setStepIndex_currentLowSide (i : StepIndex) : (s.setStepIndex i).motor.currentLowSide = s.motor.currentLowSide := rfl
@[simp] theorem State.setStepIndex_stepIndex (i : StepIndex) : (s.setStepIndex i).motor.stepIndex = i := rfl
@[simp] theorem State.setStepIndex_pwmLevel (i : StepIndex) : (s.setStepIndex i).motor.pwmLevel = s.motor.pwmLevel := rfl
@[simp] theorem State.setStepIndex_stepPeriodMs (i : StepIndex) : (s.setStepIndex i).motor.stepPeriodMs = s.motor.stepPeriodMs := rfl
@[simp] theorem State.setStepIndex_btnInc (i : StepIndex) : (s.setStepIndex i).btnInc = s.btnInc := rfl
@[simp] theorem State.setStepIndex_btnDec (i : StepIndex) : (s.setStepIndex i).btnDec = s.btnDec := rfl
@[simp] theorem State.setStepIndex_seq (i : StepIndex) : (s.setStepIndex i).seq = s.seq := rfl
@[simp] theorem State.setStepIndex_elapsed (i : StepIndex) : (s.setStepIndex i).elapsed = s.elapsed := rfl
@[simp] theorem State.setStepIndex_config (i : StepIndex) : (s.setStepIndex i).config = s.config := rfl
@[simp] theorem State.setStepIndex_driver (i : StepIndex) : (s.setStepIndex i).driver = s.driver := rfl
@[simp] theorem State.setStepIndex_trace (i : StepIndex) : (s.setStepIndex i).trace = s.trace := rfl
@[simp] theorem State.setStepIndex_env (i : StepIndex) : (s.setStepIndex i).env = s.env := rfl
@[simp] theorem State.setStepIndex_bus (i : StepIndex) : (s.setStepIndex i).bus = s.bus := rfl
@[simp] theorem State.setStepIndex_button (i : StepIndex) (k : Button) : (s.setStepIndex i).button k = s.button k := by cases k <;> rfl

/-! ### setStepPeriod -/

@[simp] theorem State.setStepPeriod_currentHighSide (w : Word) : (s.setStepPeriod w).motor.currentHighSide = s.motor.currentHighSide := rfl
@[simp] theorem State.setStepPeriod_currentLowSide (w : Word) : (s.setStepPeriod w).motor.currentLowSide = s.motor.currentLowSide := rfl
@[simp] theorem State.setStepPeriod_stepIndex (w : Word) : (s.setStepPeriod w).motor.stepIndex = s.motor.stepIndex := rfl
@[simp] theorem State.setStepPeriod_pwmLevel (w : Word) : (s.setStepPeriod w).motor.pwmLevel = s.motor.pwmLevel := rfl
@[simp] theorem State.setStepPeriod_stepPeriodMs (w : Word) : (s.setStepPeriod w).motor.stepPeriodMs = w := rfl
@[simp] theorem State.setStepPeriod_btnInc (w : Word) : (s.setStepPeriod w).btnInc = s.btnInc := rfl
@[simp] theorem State.setStepPeriod_btnDec (w : Word) : (s.setStepPeriod w).btnDec = s.btnDec := rfl
@[simp] theorem State.setStepPeriod_seq (w : Word) : (s.setStepPeriod w).seq = s.seq := rfl
@[simp] theorem State.setStepPeriod_elapsed (w : Word) : (s.setStepPeriod w).elapsed = s.elapsed := rfl
@[simp] theorem State.setStepPeriod_config (w : Word) : (s.setStepPeriod w).config = s.config := rfl
@[simp] theorem State.setStepPeriod_driver (w : Word) : (s.setStepPeriod w).driver = s.driver := rfl
@[simp] theorem State.setStepPeriod_trace (w : Word) : (s.setStepPeriod w).trace = s.trace := rfl
@[simp] theorem State.setStepPeriod_env (w : Word) : (s.setStepPeriod w).env = s.env := rfl
@[simp] theorem State.setStepPeriod_bus (w : Word) : (s.setStepPeriod w).bus = s.bus := rfl
@[simp] theorem State.setStepPeriod_button (w : Word) (k : Button) : (s.setStepPeriod w).button k = s.button k := by cases k <;> rfl

/-! ### setSeq -/

@[simp] theorem State.setSeq_motor (c : BitVec 5) : (s.setSeq c).motor = s.motor := rfl
@[simp] theorem State.setSeq_btnInc (c : BitVec 5) : (s.setSeq c).btnInc = s.btnInc := rfl
@[simp] theorem State.setSeq_btnDec (c : BitVec 5) : (s.setSeq c).btnDec = s.btnDec := rfl
@[simp] theorem State.setSeq_seq (c : BitVec 5) : (s.setSeq c).seq = c := rfl
@[simp] theorem State.setSeq_elapsed (c : BitVec 5) : (s.setSeq c).elapsed = s.elapsed := rfl
@[simp] theorem State.setSeq_config (c : BitVec 5) : (s.setSeq c).config = s.config := rfl
@[simp] theorem State.setSeq_driver (c : BitVec 5) : (s.setSeq c).driver = s.driver := rfl
@[simp] theorem State.setSeq_trace (c : BitVec 5) : (s.setSeq c).trace = s.trace := rfl
@[simp] theorem State.setSeq_env (c : BitVec 5) : (s.setSeq c).env = s.env := rfl
@[simp] theorem State.setSeq_bus (c : BitVec 5) : (s.setSeq c).bus = s.bus := rfl
@[simp] theorem State.setSeq_button (c : BitVec 5) (k : Button) : (s.setSeq c).button k = s.button k := by cases k <;> rfl

/-! ### setElapsed -/

@[simp] theorem State.setElapsed_motor (w : Word) : (s.setElapsed w).motor = s.motor := rfl
@[simp] theorem State.setElapsed_btnInc (w : Word) : (s.setElapsed w).btnInc = s.btnInc := rfl
@[simp] theorem State.setElapsed_btnDec (w : Word) : (s.setElapsed w).btnDec = s.btnDec := rfl
@[simp] theorem State.setElapsed_seq (w : Word) : (s.setElapsed w).seq = s.seq := rfl
@[simp] theorem State.setElapsed_elapsed (w : Word) : (s.setElapsed w).elapsed = w := rfl
@[simp] theorem State.setElapsed_config (w : Word) : (s.setElapsed w).config = s.config := rfl
@[simp] theorem State.setElapsed_driver (w : Word) : (s.setElapsed w).driver = s.driver := rfl
@[simp] theorem State.setElapsed_trace (w : Word) : (s.setElapsed w).trace = s.trace := rfl
@[simp] theorem State.setElapsed_env (w : Word) : (s.setElapsed w).env = s.env := rfl
@[simp] theorem State.setElapsed_bus (w : Word) : (s.setElapsed w).bus = s.bus := rfl
@[simp] theorem State.setElapsed_button (w : Word) (k : Button) : (s.setElapsed w).button k = s.button k := by cases k <;> rfl

/-! ### setEnv -/

@[simp] theorem State.setEnv_motor (e : Environment) : (s.setEnv e).motor = s.motor := rfl
@[simp] theorem State.setEnv_btnInc (e : Environment) : (s.setEnv e).btnInc = s.btnInc := rfl
@[simp] theorem State.setEnv_btnDec (e : Environment) : (s.setEnv e).btnDec = s.btnDec := rfl
@[simp] theorem State.setEnv_seq (e : Environment) : (s.setEnv e).seq = s.seq := rfl
@[simp] theorem State.setEnv_elapsed (e : Environment) : (s.setEnv e).elapsed = s.elapsed := rfl
@[simp] theorem State.setEnv_config (e : Environment) : (s.setEnv e).config = s.config := rfl
@[simp] theorem State.setEnv_driver (e : Environment) : (s.setEnv e).driver = s.driver := rfl
@[simp] theorem State.setEnv_trace (e : Environment) : (s.setEnv e).trace = s.trace := rfl
@[simp] theorem State.setEnv_env (e : Environment) : (s.setEnv e).env = e := rfl
@[simp] theorem State.setEnv_bus (e : Environment) : (s.setEnv e).bus = s.bus := rfl
@[simp] theorem State.setEnv_button (e : Environment) (k : Button) : (s.setEnv e).button k = s.button k := by cases k <;> rfl

/-! ### setBus -/

@[simp] theorem State.setBus_motor (b : Bus) : (s.setBus b).motor = s.motor := rfl
@[simp] theorem State.setBus_btnInc (b : Bus) : (s.setBus b).btnInc = s.btnInc := rfl
@[simp] theorem State.setBus_btnDec (b : Bus) : (s.setBus b).btnDec = s.btnDec := rfl
@[simp] theorem State.setBus_seq (b : Bus) : (s.setBus b).seq = s.seq := rfl
@[simp] theorem State.setBus_elapsed (b : Bus) : (s.setBus b).elapsed = s.elapsed := rfl
@[simp] theorem State.setBus_config (b : Bus) : (s.setBus b).config = s.config := rfl
@[simp] theorem State.setBus_driver (b : Bus) : (s.setBus b).driver = s.driver := rfl
@[simp] theorem State.setBus_trace (b : Bus) : (s.setBus b).trace = s.trace := rfl
@[simp] theorem State.setBus_env (b : Bus) : (s.setBus b).env = s.env := rfl
@[simp] theorem State.setBus_bus (b : Bus) : (s.setBus b).bus = b := rfl
@[simp] theorem State.setBus_button (b : Bus) (k : Button) : (s.setBus b).button k = s.button k := by cases k <;> rfl

/-! ### record -/

@[simp] theorem State.record_motor (e : Event) : (s.record e).motor = s.motor := rfl
@[simp] theorem State.record_btnInc (e : Event) : (s.record e).btnInc = s.btnInc := rfl
@[simp] theorem State.record_btnDec (e : Event) : (s.record e).btnDec = s.btnDec := rfl
@[simp] theorem State.record_seq (e : Event) : (s.record e).seq = s.seq := rfl
@[simp] theorem State.record_elapsed (e : Event) : (s.record e).elapsed = s.elapsed := rfl
@[simp] theorem State.record_config (e : Event) : (s.record e).config = s.config := rfl
@[simp] theorem State.record_driver (e : Event) : (s.record e).driver = s.driver.apply e := rfl
@[simp] theorem State.record_trace (e : Event) : (s.record e).trace = s.trace ++ [e] := rfl
@[simp] theorem State.record_env (e : Event) : (s.record e).env = s.env := rfl
@[simp] theorem State.record_bus (e : Event) : (s.record e).bus = s.bus := rfl
@[simp] theorem State.record_button (e : Event) (k : Button) : (s.record e).button k = s.button k := by cases k <;> rfl

/-! ### answerRequest -/

@[simp] theorem State.answerRequest_motor (a : Option Bool) : (s.answerRequest a).motor = s.motor := rfl
@[simp] theorem State.answerRequest_btnInc (a : Option Bool) : (s.answerRequest a).btnInc = s.btnInc := rfl
@[simp] theorem State.answerRequest_btnDec (a : Option Bool) : (s.answerRequest a).btnDec = s.btnDec := rfl
@[simp] theorem State.answerRequest_seq (a : Option Bool) : (s.answerRequest a).seq = s.seq := rfl
@[simp] theorem State.answerRequest_elapsed (a : Option Bool) : (s.answerRequest a).elapsed = s.elapsed := rfl
@[simp] theorem State.answerRequest_config (a : Option Bool) : (s.answerRequest a).config = s.config := rfl
@[simp] theorem State.answerRequest_driver (a : Option Bool) : (s.answerRequest a).driver = s.driver := rfl
@[simp] theorem State.answerRequest_trace (a : Option Bool) : (s.answerRequest a).trace = s.trace := rfl
@[simp] theorem State.answerRequest_env (a : Option Bool) : (s.answerRequest a).env = s.env := rfl
@[simp] theorem State.answerRequest_bus (a : Option Bool) : (s.answerRequest a).bus = { s.bus with reqAnswer := a } := rfl
@[simp] theorem State.answerRequest_button (a : Option Bool) (k : Button) : (s.answerRequest a).button k = s.button k := by cases k <;> rfl

/-! ### answerCommand -/

@[simp] theorem State.answerCommand_motor (a : Option Response) : (s.answerCommand a).motor = s.motor := rfl
@[simp] theorem State.answerCommand_btnInc (a : Option Response) : (s.answerCommand a).btnInc = s.btnInc := rfl
@[simp] theorem State.answerCommand_btnDec (a : Option Response) : (s.answerCommand a).btnDec = s.btnDec := rfl
@[simp] theorem State.answerCommand_seq (a : Option Response) : (s.answerCommand a).seq = s.seq := rfl
@[simp] theorem State.answerCommand_elapsed (a : Option Response) : (s.answerCommand a).elapsed = s.elapsed := rfl
@[simp] theorem State.answerCommand_config (a : Option Response) : (s.answerCommand a).config = s.config := rfl
@[simp] theorem State.answerCommand_driver (a : Option Response) : (s.answerCommand a).driver = s.driver := rfl
@[simp] theorem State.answerCommand_trace (a : Option Response) : (s.answerCommand a).trace = s.trace := rfl
@[simp] theorem State.answerCommand_env (a : Option Response) : (s.answerCommand a).env = s.env := rfl
@[simp] theorem State.answerCommand_bus (a : Option Response) : (s.answerCommand a).bus = { s.bus with cmdAnswer := a } := rfl
@[simp] theorem State.answerCommand_button (a : Option Response) (k : Button) : (s.answerCommand a).button k = s.button k := by cases k <;> rfl

/-! ### setButton -/

@[simp] theorem State.setButton_motor (k : Button) (r : ButtonInput) : (s.setButton k r).motor = s.motor := by cases k <;> rfl
@[simp] theorem State.setButton_seq (k : Button) (r : ButtonInput) : (s.setButton k r).seq = s.seq := by cases k <;> rfl
@[simp] theorem State.setButton_elapsed (k : Button) (r : ButtonInput) : (s.setButton k r).elapsed = s.elapsed := by cases k <;> rfl
@[simp] theorem State.setButton_config (k : Button) (r : ButtonInput) : (s.setButton k r).config = s.config := by cases k <;> rfl
@[simp] theorem State.setButton_driver (k : Button) (r : ButtonInput) : (s.setButton k r).driver = s.driver := by cases k <;> rfl
@[simp] theorem State.setButton_trace (k : Button) (r : ButtonInput) : (s.setButton k r).trace = s.trace := by cases k <;> rfl
@[simp] theorem State.setButton_env (k : Button) (r : ButtonInput) : (s.setButton k r).env = s.env := by cases k <;> rfl
@[simp] theorem State.setButton_bus (k : Button) (r : ButtonInput) : (s.setButton k r).bus = s.bus := by cases k <;> rfl
@[simp] theorem State.setButton_button (k : Button) (r : ButtonInput) : (s.setButton k r).button k = r := by cases k <;> rfl
theorem State.setButton_button_of_ne {k j : Button} (h : j ≠ k) (r : ButtonInput) :
    (s.setButton k r).button j = s.button j := by
  cases k <;> cases j <;> first | rfl | exact absurd rfl h

end Sys2Proof.Machine
end

