-- ==== Sys2Proof/Laws/Ops.lean ====
section
/-! SUPPORT. One specification lemma per shared operation: everything the operation does, said once. -/

namespace Sys2Proof

/-! ## Arrays indexed by phase -/

@[simp] theorem PerPhase.get_set_same {α : Type} (v : PerPhase α) (p : Phase) (x : α) : (v.set p x).get p = x := by
  cases p <;> rfl

theorem PerPhase.get_set_of_ne {α : Type} (v : PerPhase α) {p q : Phase} (h : q ≠ p) (x : α) :
    (v.set p x).get q = v.get q := by
  cases p <;> cases q <;> first | rfl | exact absurd rfl h

theorem PerPhase.get_set {α : Type} (v : PerPhase α) (p q : Phase) (x : α) :
    (v.set p x).get q = if q = p then x else v.get q := by
  cases p <;> cases q <;> rfl

@[simp] theorem PerPhase.set_set {α : Type} (v : PerPhase α) (p : Phase) (x y : α) : (v.set p x).set p y = v.set p y := by
  cases p <;> rfl

theorem table_high_ne_low (i : StepIndex) : (commutationTable i).1 ≠ (commutationTable i).2 := by
  revert i; decide

theorem eq_of_not_others (h p : Phase) (h1 : p ≠ (otherPhases h).1) (h2 : p ≠ (otherPhases h).2) : p = h := by
  cases h <;> cases p <;> simp_all [otherPhases]

namespace Machine

variable (s : State)

/-! ## The driver image -/

@[simp] theorem DriverImage.get_allOff_hsOn (p : Phase) : DriverImage.allOff.hsOn.get p = false := by cases p <;> rfl

@[simp] theorem DriverImage.get_allOff_lsEn (p : Phase) : DriverImage.allOff.lsEn.get p = false := by cases p <;> rfl

@[simp] theorem DriverImage.get_allOff_lsDuty (p : Phase) : DriverImage.allOff.lsDuty.get p = 0#32 := by cases p <;> rfl

theorem DriverImage.apply_setHs (d : DriverImage) (p : Phase) (on : Bool) :
    d.apply (.setHs p on) = { d with hsOn := d.hsOn.set p on } := rfl

theorem DriverImage.apply_setLs (d : DriverImage) (p : Phase) (en : Bool) (duty : Word) :
    d.apply (.setLs p en duty) = { d with lsEn := d.lsEn.set p en, lsDuty := d.lsDuty.set p duty } := rfl

@[simp] theorem DriverImage.apply_rdPin (d : DriverImage) (pin : Pin) (v : Bool) : d.apply (.rdPin pin v) = d := rfl

@[simp] theorem DriverImage.apply_rdTime (d : DriverImage) (t : Word) : d.apply (.rdTime t) = d := rfl

@[simp] theorem DriverImage.apply_dlyMs (d : DriverImage) (n : Word) : d.apply (.dlyMs n) = d := rfl

@[simp] theorem DriverImage.apply_dlyUs (d : DriverImage) (n : Word) : d.apply (.dlyUs n) = d := rfl

/-- The last sentence but one of 44_driver_port.md R208: the same command twice leaves the image of once. -/
theorem DriverImage.apply_apply_same (d : DriverImage) (e : Event) : (d.apply e).apply e = d.apply e := by
  cases e <;> simp [DriverImage.apply]

@[simp] theorem DriverImage.applyAll_nil (d : DriverImage) : d.applyAll [] = d := rfl

@[simp] theorem DriverImage.applyAll_cons (d : DriverImage) (e : Event) (es : List Event) :
    d.applyAll (e :: es) = (d.apply e).applyAll es := rfl

theorem DriverImage.applyAll_append (d : DriverImage) (es fs : List Event) :
    d.applyAll (es ++ fs) = (d.applyAll es).applyAll fs := by
  simp [DriverImage.applyAll, List.foldl_append]

/-! ## Growth of the history: `t` follows `s` by the events `es` -/

/-- The history of `t` is that of `s` with `es` after it, and the image of `t` is that of `s` after `es`. -/
def Follows (s t : State) (es : List Event) : Prop := t.trace = s.trace ++ es ∧ t.driver = s.driver.applyAll es

theorem Follows.refl : Follows s s [] := by simp [Follows]

theorem Follows.trans {s t u : State} {es fs : List Event} (h : Follows s t es) (k : Follows t u fs) :
    Follows s u (es ++ fs) := by
  refine ⟨?_, ?_⟩
  · rw [k.1, h.1, List.append_assoc]
  · rw [k.2, h.2, DriverImage.applyAll_append]

theorem Follows.record (e : Event) : Follows s (s.record e) [e] := ⟨rfl, rfl⟩

/-! ## Draws -/

@[simp] theorem Environment.afterPin_rst (e : Environment) : e.afterPin.rst = e.rst := rfl

@[simp] theorem Environment.afterClock_rst (e : Environment) : e.afterClock.rst = e.rst := rfl

@[simp] theorem Environment.afterPin_clockReadings (e : Environment) : e.afterPin.clockReadings = e.clockReadings := rfl

@[simp] theorem Environment.afterClock_pinSamples (e : Environment) : e.afterClock.pinSamples = e.pinSamples := rfl

theorem Environment.pinLevel_cons {e : Environment} {v : Bool} {r : List Bool} (h : e.pinSamples = v :: r) (pin : Pin) :
    e.pinLevel pin = v := by
  simp [Environment.pinLevel, h]

theorem Environment.afterPin_pinSamples_cons {e : Environment} {v : Bool} {r : List Bool} (h : e.pinSamples = v :: r) :
    e.afterPin.pinSamples = r := by
  simp [Environment.afterPin, h]

theorem Environment.clockNow_cons {e : Environment} {t : Word} {r : List Word} (h : e.clockReadings = t :: r) :
    e.clockNow = t := by
  simp [Environment.clockNow, h]

theorem Environment.afterClock_clockReadings_cons {e : Environment} {t : Word} {r : List Word}
    (h : e.clockReadings = t :: r) : e.afterClock.clockReadings = r := by
  simp [Environment.afterClock, h]

/-! ## Safety Monitor -/

/-- The events of one `FCHK`. -/
def faultCheckEvents (s : State) : List Event :=
  [.rdPin .estop (s.env.pinLevel .estop), .rdPin .fault (s.env.afterPin.pinLevel .fault)]

theorem faultCheck_fst :
    (faultCheck s).1 = faultCondition (s.env.pinLevel .estop) (s.env.afterPin.pinLevel .fault) := rfl

/-- All that `FCHK` changes: two draws and two events (40_safety_monitor.md R110, R111). -/
theorem faultCheck_snd :
    (faultCheck s).2 = { s with env := s.env.afterPin.afterPin, trace := s.trace ++ faultCheckEvents s } := by
  simp [faultCheck, readPin, faultCheckEvents, State.record, State.setEnv]

theorem faultCondition_eq_false {e x : Bool} : faultCondition e x = false ↔ e = true ∧ x = false := by
  cases e <;> cases x <;> simp [faultCondition]

theorem faultCondition_eq_true {e x : Bool} : faultCondition e x = true ↔ e = false ∨ x = true := by
  cases e <;> cases x <;> simp [faultCondition]

/-- A clear sample read both inputs healthy. -/
theorem faultCheckEvents_of_clear (h : (faultCheck s).1 = false) :
    faultCheckEvents s = [.rdPin .estop true, .rdPin .fault false] := by
  rw [faultCheck_fst, faultCondition_eq_false] at h
  simp [faultCheckEvents, h.1, h.2]

/-! ## Safe state -/

/-- The six off commands, in order (41_commutation.md R120, D10). -/
def safeOffEvents : List Event :=
  [.setHs .A false, .setHs .B false, .setHs .C false, .setLs .A false 0#32, .setLs .B false 0#32, .setLs .C false 0#32]

theorem applyAll_safeOffEvents (d : DriverImage) : d.applyAll safeOffEvents = DriverImage.allOff := rfl

/-- All that `SAFEOFF` changes: both fields, six events, and whatever the image was it is all off. -/
theorem safeOff_eq :
    safeOff s = { s with
      motor := { s.motor with currentHighSide := none, currentLowSide := none }
      driver := DriverImage.allOff
      trace := s.trace ++ safeOffEvents } := by
  simp [safeOff, setHs, setLs, State.record, State.setHighSide, State.setLowSide, safeOffEvents, DriverImage.apply,
    PerPhase.set, DriverImage.allOff]

/-- The state in which a micro-operation that sampled a fault leaves the machine (60_exceptions.md R224, R225). -/
theorem enterFaultHalted_eq :
    enterFaultHalted s = { s with
      motor := { s.motor with currentHighSide := none, currentLowSide := none }
      driver := DriverImage.allOff
      trace := s.trace ++ safeOffEvents
      seq := SeqCode.HENTER } := by
  simp [enterFaultHalted, safeOff_eq, State.setSeq]

theorem leaveFaultHalted_eq :
    leaveFaultHalted s = { s with
      motor := { s.motor with currentHighSide := none, currentLowSide := none }
      driver := DriverImage.allOff
      trace := s.trace ++ safeOffEvents
      seq := SeqCode.CS1 } := by
  simp [leaveFaultHalted, safeOff_eq, State.setSeq]

/-! ## Electrical transitions -/

/-- The events of algorithm step 2: one off command, or none when no low side is recorded. -/
def lowSideOffEvents : Option Phase → List Event
  | some l => [.setLs l false 0#32]
  | none => []

theorem lowSideOff_eq :
    lowSideOff s = { s with
      motor := { s.motor with currentLowSide := none }
      driver := s.driver.applyAll (lowSideOffEvents s.motor.currentLowSide)
      trace := s.trace ++ lowSideOffEvents s.motor.currentLowSide } := by
  unfold lowSideOff
  cases h : s.motor.currentLowSide <;> simp [lowSideOffEvents, setLs, State.record, State.setLowSide]

theorem deadtime_eq : deadtime s = { s with trace := s.trace ++ [.dlyUs s.config.deadTimeUs] } := rfl

theorem otherHighSidesOff_eq (h : Phase) :
    otherHighSidesOff h s = { s with
      driver := { s.driver with hsOn := (s.driver.hsOn.set (otherPhases h).1 false).set (otherPhases h).2 false }
      trace := s.trace ++ [.setHs (otherPhases h).1 false, .setHs (otherPhases h).2 false] } := by
  simp [otherHighSidesOff, setHs, State.record, DriverImage.apply]

theorem highSideOn_eq (h : Phase) :
    highSideOn h s = { s with
      motor := { s.motor with currentHighSide := some h }
      driver := { s.driver with hsOn := s.driver.hsOn.set h true }
      trace := s.trace ++ [.setHs h true] } := rfl

theorem lowSideOn_eq (l : Phase) (duty : Word) :
    lowSideOn l duty s = { s with
      motor := { s.motor with currentLowSide := some l }
      driver := { s.driver with lsEn := s.driver.lsEn.set l true, lsDuty := s.driver.lsDuty.set l duty }
      trace := s.trace ++ [.setLs l true duty] } := rfl

/-! ## Speed -/

/-- 43_control_loop.md R182: the clamp is applied to the mathematical difference. -/
theorem speedUp_toNat (c : Config) (w : Word) :
    (speedUp c w).toNat =
      if c.stepTimeMinMs.toNat + c.stepTimeStepMs.toNat ≤ w.toNat then w.toNat - c.stepTimeStepMs.toNat
      else c.stepTimeMinMs.toNat := by
  unfold speedUp
  split
  · rw [BitVec.toNat_sub_of_le (by rw [BitVec.le_def]; omega)]
  · rfl

/-- 43_control_loop.md R183: the sum is formed without wrapping. -/
theorem speedDown_toNat (c : Config) (w : Word) :
    (speedDown c w).toNat =
      if w.toNat + c.stepTimeStepMs.toNat ≤ c.stepTimeMaxMs.toNat then w.toNat + c.stepTimeStepMs.toNat
      else c.stepTimeMaxMs.toNat := by
  have := c.stepTimeMaxMs.isLt
  unfold speedDown
  split
  · rw [BitVec.toNat_add, Nat.mod_eq_of_lt (by omega)]
  · rfl

/-! ## Debounce -/

/-- The events of one `BTNPOLL b`. -/
def pollEvents (b : Button) (s : State) : List Event :=
  [.rdPin b.pin (s.env.pinLevel b.pin), .rdTime s.env.afterPin.clockNow]

/-- The record of button `b` and the answer `evt` after one poll (42_debounce.md R150). -/
def pollResult (b : Button) (s : State) : ButtonInput × Bool :=
  debounce s.config (s.env.pinLevel b.pin) s.env.afterPin.clockNow (s.button b)

theorem pollButton_fst (b : Button) : (pollButton b s).1 = (pollResult b s).2 := rfl

/-- All that `BTNPOLL b` changes: two draws, two events, the record of `b`. -/
theorem pollButton_snd (b : Button) :
    (pollButton b s).2 =
      ({ s with env := s.env.afterPin.afterClock, trace := s.trace ++ pollEvents b s }).setButton b
        (pollResult b s).1 := by
  cases b <;>
    simp [pollButton, readPin, readTime, pollEvents, pollResult, State.record, State.setEnv, State.setButton,
      State.button, Button.pin]

/-! ## Fetch -/

theorem State.fetch_of_idle (hc : s.bus.cmd = none) (hr : s.bus.req = none) : s.fetch = (.seq s.seq, s) := by
  unfold State.fetch State.takeWord
  cases decodeSeq s.seq <;> simp [hc, hr]

theorem State.fetch_of_legal {i : Instr} (hd : decodeSeq s.seq = .ok i) : s.fetch = s.takeWord := by
  simp [State.fetch, hd]

theorem State.fetch_of_reserved {e : DecodeError} (hd : decodeSeq s.seq = .error e) : s.fetch = (.seq s.seq, s) := by
  simp [State.fetch, hd]

/-- All that a fetch can do: give the code in `seq` and change nothing, or, beside a legal code, take the waiting word. -/
theorem State.fetch_cases :
    s.fetch = (.seq s.seq, s) ∨
      (∃ w, s.bus.cmd = some w ∧ s.fetch = (.port w, s.setBus { s.bus with cmd := none })) ∨
      ∃ w, s.bus.cmd = none ∧ s.bus.req = some w ∧ s.fetch = (.request w, s.setBus { s.bus with req := none }) := by
  unfold State.fetch State.takeWord
  cases decodeSeq s.seq with
  | error e => exact .inl rfl
  | ok i =>
    cases hc : s.bus.cmd with
    | some w => exact .inr (.inl ⟨w, rfl, rfl⟩)
    | none =>
      cases hr : s.bus.req with
      | some w => exact .inr (.inr ⟨w, rfl, rfl, rfl⟩)
      | none => exact .inl rfl

/-- Whatever waits, a state that holds a reserved code has no successor but by a reset (20_memory.md R64, 30_encoding.md R91). -/
theorem step_of_reserved {e : DecodeError} (hr : s.env.rst = false) (hd : decodeSeq s.seq = .error e) :
    step s = .refused (refusalOf e) := by
  simp [step, hr, s.fetch_of_reserved hd, decode, hd]

theorem State.legalizeSeq_legal : ∃ i, decodeSeq s.legalizeSeq.seq = .ok i := by
  unfold State.legalizeSeq
  cases hd : decodeSeq s.seq with
  | ok i => exact ⟨i, hd⟩
  | error e => exact ⟨.cs1, rfl⟩

/-- A word that is placed is the one the next step fetches. -/
theorem State.placeWord_fetch (c : CodeWord) : (s.placeWord c).fetch.1 = c := by
  obtain ⟨i, hi⟩ := s.legalizeSeq_legal
  cases c with
  | seq code => simp [State.placeWord, State.fetch_of_idle]
  | request w => simp [State.placeWord, State.fetch_of_legal, hi, State.takeWord]
  | port w => simp [State.placeWord, State.fetch_of_legal, hi, State.takeWord]

/-! ## SETLS from the command port -/

theorem dutyInRange_iff {c : Config} {duty : Word} : dutyInRange c duty = true ↔ duty.toNat ≤ c.maxDuty.toNat := by
  simp [dutyInRange]

/-- All that SETLS taken from the port can do (44_driver_port.md R202, 30_encoding.md R93, U11). -/
theorem execSetls_next_iff {sel : BitVec 2} {en : Bool} {duty : Word} {t : State} :
    execSetls sel en duty s = .next t ↔
      ∃ p, phaseOfCode sel = some p ∧ duty.toNat ≤ s.config.maxDuty.toNat ∧ t = (setLs p en duty s).answerCommand none := by
  unfold execSetls
  cases phaseOfCode sel with
  | none => simp
  | some p =>
    by_cases hd : dutyInRange s.config duty = true
    · simp [hd, dutyInRange_iff.mp hd, eq_comm]
    · have hn : ¬ duty.toNat ≤ s.config.maxDuty.toNat := fun h => hd (dutyInRange_iff.mpr h)
      simp [hd, hn]

/-- One step, inverted: the reset event, or the fetched word decoded and run. -/
theorem step_next_cases {t : State} (h : step s = .next t) :
    (s.env.rst = true ∧ t = resetEvent s) ∨
      (s.env.rst = false ∧ ∃ i, decode s.fetch.1 = .ok i ∧ exec i s.fetch.2 = .next t) := by
  unfold step at h
  cases hr : s.env.rst with
  | true => simp [hr] at h; exact .inl ⟨rfl, h.symm⟩
  | false =>
    cases hd : decode s.fetch.1 with
    | ok i => exact .inr ⟨rfl, i, rfl, by simpa [hr, hd] using h⟩
    | error e => simp [hr, hd] at h

/-- A step that no bus word and no reset disturbs runs the code in `seq`. -/
theorem step_eq_of_quiet {i : Instr} (hr : s.env.rst = false) (hc : s.bus.cmd = none) (hq : s.bus.req = none)
    (hd : decodeSeq s.seq = .ok i) : step s = exec i s := by
  simp [step, hr, s.fetch_of_idle hc hq, decode, hd]

end Machine

end Sys2Proof
end

