-- ==== Sys2Proof/Laws/PerInstr.lean ====
section
/-! SUPPORT. The family TableRow: the word of every instruction agrees with its row of spec/opcode_table.json, whose match and
mask are written out here from the table and not from the encoder. -/

namespace Sys2Proof.Laws.TableRow

/-- The bits of `w` that the mask `m` keeps, when both are words of one kind. -/
def masked : CodeWord → CodeWord → Option CodeWord
  | .seq w, .seq m => some (.seq (w &&& m))
  | .request w, .request m => some (.request (w &&& m))
  | .port w, .port m => some (.port (w &&& m))
  | .seq _, .request _ => none
  | .seq _, .port _ => none
  | .request _, .seq _ => none
  | .request _, .port _ => none
  | .port _, .seq _ => none
  | .port _, .request _ => none

/-- The column "mask" of the row. -/
def tableMask : Instr → CodeWord
  | .cs1 => .seq 0x1F#5
  | .cs2 => .seq 0x1F#5
  | .cs3 => .seq 0x1F#5
  | .cs4 => .seq 0x1F#5
  | .cs5 => .seq 0x1F#5
  | .cs6 => .seq 0x1F#5
  | .cs7 => .seq 0x1F#5
  | .cs8 => .seq 0x1F#5
  | .winit => .seq 0x1F#5
  | .wchk => .seq 0x1F#5
  | .wfault => .seq 0x1F#5
  | .winc => .seq 0x1F#5
  | .wdec => .seq 0x1F#5
  | .wsleep => .seq 0x1F#5
  | .adv => .seq 0x1F#5
  | .henter => .seq 0x1F#5
  | .hpoll => .seq 0x1F#5
  | .hsleep => .seq 0x1F#5
  | .hexit => .seq 0x1F#5
  | .fchk => .request 0x1FFFFFFFFF#37
  | .safeoff => .request 0x1FFFFFFFFF#37
  | .commutate _ _ => .request 0x1800000000#37
  | .btnpoll _ => .request 0x1EFFFFFFFF#37
  | .seths _ _ => .port 0x38FFFFFFFF#38
  | .setls _ _ _ => .port 0x3800000000#38
  | .rdpin _ => .port 0x39FFFFFFFF#38
  | .rdtime => .port 0x3FFFFFFFFF#38
  | .dlyms _ => .port 0x3F00000000#38
  | .dlyus _ => .port 0x3F00000000#38

/-- The column "match" of the row. -/
def tableMatch : Instr → CodeWord
  | .cs1 => .seq 0x00#5
  | .cs2 => .seq 0x01#5
  | .cs3 => .seq 0x02#5
  | .cs4 => .seq 0x03#5
  | .cs5 => .seq 0x04#5
  | .cs6 => .seq 0x05#5
  | .cs7 => .seq 0x06#5
  | .cs8 => .seq 0x07#5
  | .winit => .seq 0x08#5
  | .wchk => .seq 0x09#5
  | .wfault => .seq 0x0A#5
  | .winc => .seq 0x0B#5
  | .wdec => .seq 0x0C#5
  | .wsleep => .seq 0x0D#5
  | .adv => .seq 0x0E#5
  | .henter => .seq 0x10#5
  | .hpoll => .seq 0x11#5
  | .hsleep => .seq 0x12#5
  | .hexit => .seq 0x13#5
  | .fchk => .request 0x0000000000#37
  | .safeoff => .request 0x0800000000#37
  | .commutate _ _ => .request 0x1000000000#37
  | .btnpoll _ => .request 0x1800000000#37
  | .seths _ _ => .port 0x0000000000#38
  | .setls _ _ _ => .port 0x0800000000#38
  | .rdpin _ => .port 0x1000000000#38
  | .rdtime => .port 0x1800000000#38
  | .dlyms _ => .port 0x2000000000#38
  | .dlyus _ => .port 0x2800000000#38

/-- The word of `i`, under the mask of its row, is the row's match. -/
def Statement (i : Instr) : Prop := masked (encode i) (tableMask i) = some (tableMatch i)

theorem reqWord_masked {m k : BitVec 37} {fn : BitVec 2} {arg : BitVec 3} {duty : Word}
    (h : ∀ i, i < 37 →
      ((if i < 32 then duty.getLsbD i else if i - 32 < 3 then arg.getLsbD (i - 32) else fn.getLsbD (i - 32 - 3)) &&
        m.getLsbD i) = k.getLsbD i) :
    reqWord fn arg duty &&& m = k := by
  apply BitVec.eq_of_getLsbD_eq
  intro i hi
  rw [BitVec.getLsbD_and, ← h i hi]
  simp only [reqWord, BitVec.getLsbD_append]

theorem cmdWord_masked {m k : BitVec 38} {op : BitVec 3} {sel : BitVec 2} {flag : BitVec 1} {val : Word}
    (h : ∀ i, i < 38 →
      ((if i < 32 then val.getLsbD i else if i - 32 < 1 then flag.getLsbD (i - 32)
        else if i - 32 - 1 < 2 then sel.getLsbD (i - 32 - 1) else op.getLsbD (i - 32 - 1 - 2)) && m.getLsbD i) =
        k.getLsbD i) :
    cmdWord op sel flag val &&& m = k := by
  apply BitVec.eq_of_getLsbD_eq
  intro i hi
  rw [BitVec.getLsbD_and, ← h i hi]
  simp only [cmdWord, BitVec.getLsbD_append]

theorem cs1 : Statement .cs1 := rfl

theorem cs2 : Statement .cs2 := rfl

theorem cs3 : Statement .cs3 := rfl

theorem cs4 : Statement .cs4 := rfl

theorem cs5 : Statement .cs5 := rfl

theorem cs6 : Statement .cs6 := rfl

theorem cs7 : Statement .cs7 := rfl

theorem cs8 : Statement .cs8 := rfl

theorem winit : Statement .winit := rfl

theorem wchk : Statement .wchk := rfl

theorem wfault : Statement .wfault := rfl

theorem winc : Statement .winc := rfl

theorem wdec : Statement .wdec := rfl

theorem wsleep : Statement .wsleep := rfl

theorem adv : Statement .adv := rfl

theorem henter : Statement .henter := rfl

theorem hpoll : Statement .hpoll := rfl

theorem hsleep : Statement .hsleep := rfl

theorem hexit : Statement .hexit := rfl

theorem fchk : Statement .fchk := rfl

theorem safeoff : Statement .safeoff := rfl

theorem commutate (step : BitVec 3) (dutyLevel : Word) : Statement (.commutate step dutyLevel) := by
  refine congrArg (fun w => some (CodeWord.request w)) (reqWord_masked ?_)
  intro i hi
  interval_cases i <;> simp

theorem btnpoll (b : Button) : Statement (.btnpoll b) := by cases b <;> rfl

theorem seths (phase : BitVec 2) (on : Bool) : Statement (.seths phase on) := by
  refine congrArg (fun w => some (CodeWord.port w)) (cmdWord_masked ?_)
  intro i hi
  interval_cases i <;> simp

theorem setls (phase : BitVec 2) (enabled : Bool) (duty : Word) : Statement (.setls phase enabled duty) := by
  refine congrArg (fun w => some (CodeWord.port w)) (cmdWord_masked ?_)
  intro i hi
  interval_cases i <;> simp

theorem rdpin (pin : Pin) : Statement (.rdpin pin) := by cases pin <;> rfl

theorem rdtime : Statement .rdtime := rfl

theorem dlyms (n : Word) : Statement (.dlyms n) := by
  refine congrArg (fun w => some (CodeWord.port w)) (cmdWord_masked ?_)
  intro i hi
  interval_cases i <;> simp

theorem dlyus (n : Word) : Statement (.dlyus n) := by
  refine congrArg (fun w => some (CodeWord.port w)) (cmdWord_masked ?_)
  intro i hi
  interval_cases i <;> simp

end Sys2Proof.Laws.TableRow
end

