-- ==== Sys2Proof/Laws/Step.lean ====
section
/-! SUPPORT. What a step, a run, an indivisible COMMUTATE and a sequence of polls can do, each said once; and where an event
of a lengthened history stands. -/

namespace Sys2Proof.Machine

/-! ## Runs -/

theorem core_run_zero (s : State) : core.run 0 s = .next s := rfl

theorem core_run_succ {s t : State} (n : Nat) (h : step s = .next t) : core.run (n + 1) s = core.run n t := by
  have hc : core.step s = .next t := h
  simp only [Host.Core.run, hc]

/-- A run after a run is one run. -/
theorem core_run_add {s t : State} (n m : Nat) (h : core.run n s = .next t) : core.run (m + n) s = core.run m t := by
  induction n generalizing s with
  | zero => cases h; rfl
  | succ n ih =>
    simp only [Host.Core.run] at h
    show core.run ((m + n) + 1) s = _
    simp only [Host.Core.run]
    cases hc : core.step s with
    | next u => rw [hc] at h; exact ih h
    | fault r => rw [hc] at h; cases h
    | refused r => rw [hc] at h; cases h

theorem State.Quiet.step_eq {s : State} (q : s.Quiet) {i : Instr} (hd : decodeSeq s.seq = .ok i) : step s = exec i s :=
  step_eq_of_quiet s q.no_reset q.no_command q.no_request hd

/-- A step that nothing disturbs, inverted: it ran the micro-operation whose code stands in `seq`. -/
theorem State.Quiet.step_inv {s t : State} (q : s.Quiet) (h : step s = .next t) :
    ∃ i, decodeSeq s.seq = .ok i ∧ exec i s = .next t := by
  rcases step_next_cases s h with ⟨hr, _⟩ | ⟨_, i, hd, he⟩
  · rw [q.no_reset] at hr; cases hr
  · rw [s.fetch_of_idle q.no_command q.no_request] at hd he
    exact ⟨i, hd, he⟩

/-- Only the micro-operations decode from `seq`, each from its own code. -/
theorem decodeSeq_encode {code : BitVec 5} {i : Instr} (h : decodeSeq code = .ok i) : encode i = .seq code := by
  unfold decodeSeq at h
  split at h <;> simp only [Except.ok.injEq, reduceCtorEq] at h <;> subst h <;>
    exact congrArg CodeWord.seq (BitVec.eq_of_toNat_eq (by simp [*, SeqCode.CS1, SeqCode.CS2, SeqCode.CS3, SeqCode.CS4,
      SeqCode.CS5, SeqCode.CS6, SeqCode.CS7, SeqCode.CS8, SeqCode.WINIT, SeqCode.WCHK, SeqCode.WFAULT, SeqCode.WINC,
      SeqCode.WDEC, SeqCode.WSLEEP, SeqCode.ADV, SeqCode.HENTER, SeqCode.HPOLL, SeqCode.HSLEEP, SeqCode.HEXIT]))

/-! ## The two outcomes of a fault sample -/

theorem execCs1_cases {s t : State} (h : exec .cs1 s = .next t) :
    ((faultCheck s).1 = true ∧ t = enterFaultHalted (faultCheck s).2) ∨
      ((faultCheck s).1 = false ∧ t = (faultCheck s).2.setSeq SeqCode.CS2) := by
  simp only [exec, execCs1, Host.Outcome.next.injEq] at h
  cases hc : (faultCheck s).1 <;> simp [hc] at h <;> simp [h]

theorem execWfault_cases {s t : State} (h : exec .wfault s = .next t) :
    ((faultCheck s).1 = true ∧ t = enterFaultHalted (faultCheck s).2) ∨
      ((faultCheck s).1 = false ∧ t = (faultCheck s).2.setSeq SeqCode.WINC) := by
  simp only [exec, execWfault, Host.Outcome.next.injEq] at h
  cases hc : (faultCheck s).1 <;> simp [hc] at h <;> simp [h]

/-! ## COMMUTATE -/

/-- The events of the seven electrical steps and deadtimes after a clear sample. -/
def commutateEvents (h l : Phase) (duty dead : Word) (low : Option Phase) : List Event :=
  lowSideOffEvents low ++
    [.dlyUs dead, .setHs (otherPhases h).1 false, .setHs (otherPhases h).2 false, .dlyUs dead, .setHs h true, .dlyUs dead,
      .setLs l true duty]

theorem commutate_of_clear (s : State) (i : StepIndex) (duty : Word) (hc : (faultCheck s).1 = false) :
    commutate i duty s = (false, { s with
      motor := { s.motor with
        currentHighSide := some (commutationTable i).1
        currentLowSide := some (commutationTable i).2 }
      driver := s.driver.applyAll
        (commutateEvents (commutationTable i).1 (commutationTable i).2 duty s.config.deadTimeUs s.motor.currentLowSide)
      trace := s.trace ++ ([.rdPin .estop true, .rdPin .fault false] ++
        commutateEvents (commutationTable i).1 (commutationTable i).2 duty s.config.deadTimeUs s.motor.currentLowSide)
      env := s.env.afterPin.afterPin
      seq := SeqCode.WINIT }) := by
  simp [commutate, hc, faultCheck_snd, faultCheckEvents_of_clear s hc, lowSideOff_eq, deadtime_eq, otherHighSidesOff_eq,
    highSideOn_eq, lowSideOn_eq, State.setSeq, DriverImage.applyAll_append, DriverImage.apply_setHs,
    DriverImage.apply_setLs, commutateEvents]

theorem commutate_of_fault (s : State) (i : StepIndex) (duty : Word) (hc : (faultCheck s).1 = true) :
    commutate i duty s = (true, enterFaultHalted (faultCheck s).2) := by
  simp [commutate, hc]

/-! ## Sequences of polls -/

/-- The state after the engine request `BTNPOLL b`. -/
def afterPoll (b : Button) (s : State) : State := (pollButton b s).2.answerRequest (some (pollButton b s).1)

theorem pollAnswers_succ (b : Button) (n : Nat) (s : State) :
    pollAnswers b (n + 1) s = (pollResult b s).2 :: pollAnswers b n (afterPoll b s) := by
  simp [pollAnswers, exec, execBtnpoll, afterPoll, pollButton_fst]

@[simp] theorem afterPoll_button (b : Button) (s : State) : (afterPoll b s).button b = (pollResult b s).1 := by
  simp [afterPoll, pollButton_snd]

@[simp] theorem afterPoll_config (b : Button) (s : State) : (afterPoll b s).config = s.config := by
  simp [afterPoll, pollButton_snd]

@[simp] theorem afterPoll_env (b : Button) (s : State) : (afterPoll b s).env = s.env.afterPin.afterClock := by
  simp [afterPoll, pollButton_snd]

@[simp] theorem State.setButton_self (b : Button) (s : State) : s.setButton b (s.button b) = s := by cases b <;> rfl

/-! ## Where an event of a lengthened history stands -/

/-- An event that is not among the new ones stood in the old history. -/
theorem occurs_before {old new l r : List Event} {x : Event} (h : old ++ new = l ++ x :: r) (hx : x ∉ new) :
    ∃ r', old = l ++ x :: r' := by
  rcases List.append_eq_append_iff.mp h with ⟨a, _, h2⟩ | ⟨c, h1, h2⟩
  · exact absurd (by rw [h2]; simp) hx
  · cases c with
    | nil =>
      have e : new = x :: r := by simpa using h2.symm
      exact absurd (by rw [e]; simp) hx
    | cons y c => simp at h2; exact ⟨c, by rw [h1, h2.1]⟩

/-- An event of a history with one more event is the new one, or stood in the old history. -/
theorem occurs_last_or_before {old l r : List Event} {x e : Event} (h : old ++ [e] = l ++ x :: r) :
    (l = old ∧ x = e) ∨ ∃ r', old = l ++ x :: r' := by
  rcases List.append_eq_append_iff.mp h with ⟨a, h1, h2⟩ | ⟨c, h1, h2⟩
  · cases a with
    | nil => simp at h2 h1; exact .inl ⟨h1, h2.1.symm⟩
    | cons y ys => simp at h2
  · cases c with
    | nil => simp at h2 h1; exact .inl ⟨h1.symm, h2.1⟩
    | cons y c => simp at h2; exact .inr ⟨c, by rw [h1, h2.1]⟩

end Sys2Proof.Machine
end

