-- ==== Sys2Proof/Tests/Slice0.lean ====
section
/-! SUPPORT. The model's own tests. Expected results are those of spec/95_test_vectors.md (vector names V-…) and words written
out from spec/30_encoding.md. The last part gives, for every statement with premises, states and operands that meet them. -/

namespace Sys2Proof.Tests

open Sys2Proof.Machine

/-! ## The example configuration of 95_test_vectors.md section 0, and small states -/

def ex : Config where
  maxDuty := 255#32
  pwmFreq := 0#32
  pwmInit := 128#32
  deadTimeUs := 5#32
  stepTimeInitMs := 200#32
  stepTimeMinMs := 20#32
  stepTimeMaxMs := 500#32
  stepTimeStepMs := 10#32
  debounceMs := 30#32
  repeatMs := 300#32
  pollMs := 10#32
  faultPollMs := 50#32

/-- The environment with these answers ready. -/
def envOf (pins : List Bool) (times : List Word) : Environment where
  pinSamples := pins
  clockReadings := times
  draws := 0
  rst := false

/-- The reset state at `seq = code`, with these answers ready. -/
def at' (code : BitVec 5) (pins : List Bool := []) (times : List Word := []) : State :=
  { State.atReset ex DriverImage.allOff (envOf pins times) with seq := code }

/-- `at'` while phase `h` is driven high and phase `l` low, at duty 128. -/
def driven (code : BitVec 5) (h l : Phase) (pins : List Bool := []) : State :=
  { at' code pins with
    motor := { (at' code).motor with currentHighSide := some h, currentLowSide := some l }
    driver :=
      { hsOn := DriverImage.allOff.hsOn.set h true
        lsEn := DriverImage.allOff.lsEn.set l true
        lsDuty := DriverImage.allOff.lsDuty.set l 128#32 } }

/-- `at'` with the record of button `b`. -/
def pressed (code : BitVec 5) (b : Button) (r : ButtonInput) (pins : List Bool) (times : List Word) : State :=
  (at' code pins times).setButton b r

/-- The next state, if there is one. -/
def nextOf (o : Host.Outcome State Fault Refusal) : Option State :=
  match o with
  | .next s => some s
  | .fault _ => none
  | .refused _ => none

/-- The refusal, if there is one. -/
def refusedOf (o : Host.Outcome State Fault Refusal) : Option Refusal :=
  match o with
  | .next _ => none
  | .fault _ => none
  | .refused r => some r

/-- What a field of the next state is. -/
def out {α : Type} (i : Instr) (s : State) (f : State → α) : Option α := (nextOf (exec i s)).map f

/-- The instruction a word decodes to. -/
def instrOf (c : CodeWord) : Option Instr :=
  match decode c with
  | .ok i => some i
  | .error _ => none

/-! ## Well-formedness: an ill-formed term for each check -/

theorem test_wf_commutate_six : (Instr.commutate 6#3 0#32).wellFormed = false := by decide
theorem test_wf_commutate_seven : (Instr.commutate 7#3 0#32).wellFormed = false := by decide
theorem test_wf_commutate_five : (Instr.commutate 5#3 0#32).wellFormed = true := by decide
theorem test_wf_seths_none : (Instr.seths 3#2 true).wellFormed = false := by decide
theorem test_wf_seths_c : (Instr.seths 2#2 true).wellFormed = true := by decide
theorem test_wf_setls_none : (Instr.setls 3#2 true 0#32).wellFormed = false := by decide

/-! ## Decoding: every constructor from a word written out (30_encoding.md R84, R85, R88) -/

theorem test_decode_seq_commutation :
    instrOf (.seq 0b00000#5) = some .cs1 ∧ instrOf (.seq 0b00001#5) = some .cs2 ∧ instrOf (.seq 0b00010#5) = some .cs3 ∧
      instrOf (.seq 0b00011#5) = some .cs4 ∧ instrOf (.seq 0b00100#5) = some .cs5 ∧ instrOf (.seq 0b00101#5) = some .cs6 ∧
      instrOf (.seq 0b00110#5) = some .cs7 ∧ instrOf (.seq 0b00111#5) = some .cs8 := by decide

theorem test_decode_seq_wait :
    instrOf (.seq 0b01000#5) = some .winit ∧ instrOf (.seq 0b01001#5) = some .wchk ∧
      instrOf (.seq 0b01010#5) = some .wfault ∧ instrOf (.seq 0b01011#5) = some .winc ∧
      instrOf (.seq 0b01100#5) = some .wdec ∧ instrOf (.seq 0b01101#5) = some .wsleep ∧
      instrOf (.seq 0b01110#5) = some .adv := by decide

theorem test_decode_seq_halted :
    instrOf (.seq 0b10000#5) = some .henter ∧ instrOf (.seq 0b10001#5) = some .hpoll ∧
      instrOf (.seq 0b10010#5) = some .hsleep ∧ instrOf (.seq 0b10011#5) = some .hexit := by decide

theorem test_decode_seq_reserved :
    instrOf (.seq 0b01111#5) = none ∧ instrOf (.seq 0b10100#5) = none ∧ instrOf (.seq 0b11111#5) = none := by decide

theorem test_decode_req :
    instrOf (.request 0b0000000000000000000000000000000000000#37) = some .fchk ∧
      instrOf (.request 0b0100000000000000000000000000000000000#37) = some .safeoff ∧
      instrOf (.request 0b1010100000000000000000000000010000000#37) = some (.commutate 5#3 128#32) ∧
      instrOf (.request 0b1100000000000000000000000000000000000#37) = some (.btnpoll .inc) ∧
      instrOf (.request 0b1100100000000000000000000000000000000#37) = some (.btnpoll .dec) := by decide

/-- 95_test_vectors.md section 2.8, and 30_encoding.md R92. -/
theorem test_decode_req_reserved :
    instrOf (.request 0x1600000080#37) = none ∧ instrOf (.request 0x1A00000000#37) = none ∧
      instrOf (.request 0x0000000001#37) = none ∧ instrOf (.request 0x0900000000#37) = none := by decide

/-- 95_test_vectors.md section 2.8. -/
theorem test_decode_cmd :
    instrOf (.port 0x0100000000#38) = some (.seths 0#2 true) ∧ instrOf (.port 0x0400000000#38) = some (.seths 2#2 false) ∧
      instrOf (.port 0x0B00000080#38) = some (.setls 1#2 true 128#32) ∧
      instrOf (.port 0x0C00000000#38) = some (.setls 2#2 false 0#32) ∧
      instrOf (.port 0x1000000000#38) = some (.rdpin .estop) ∧ instrOf (.port 0x1200000000#38) = some (.rdpin .fault) ∧
      instrOf (.port 0x1400000000#38) = some (.rdpin .btnInc) ∧ instrOf (.port 0x1800000000#38) = some .rdtime ∧
      instrOf (.port 0x2000000032#38) = some (.dlyms 50#32) ∧ instrOf (.port 0x2800000005#38) = some (.dlyus 5#32) := by
  decide

/-- 95_test_vectors.md section 2.8. -/
theorem test_decode_cmd_reserved :
    instrOf (.port 0x3000000000#38) = none ∧ instrOf (.port 0x3800000000#38) = none ∧
      instrOf (.port 0x0600000000#38) = none ∧ instrOf (.port 0x0E00000000#38) = none ∧
      instrOf (.port 0x0100000001#38) = none ∧ instrOf (.port 0x1900000000#38) = none := by decide

theorem test_encode_words :
    encode (.commutate 0#3 128#32) = .request 0x1000000080#37 ∧ encode (.btnpoll .dec) = .request 0x1900000000#37 ∧
      encode (.setls 2#2 true 255#32) = .port 0x0D000000FF#38 ∧ encode (.rdpin .btnDec) = .port 0x1600000000#38 := by decide

/-- The last line of 95_test_vectors.md section 2.8 (30_encoding.md R81 to R83). -/
theorem test_field_codes :
    optPhaseCode (some .C) = 0b10#2 ∧ optPhaseCode none = 0b11#2 ∧ stepCode 5 = 0b101#3 ∧ phaseOfCode 0b11#2 = none ∧
      stepOfCode 0b110#3 = none := by decide

theorem test_table_words :
    decodeTableWord 8 19 = some .hexit ∧ decodeTableWord 8 15 = none ∧
      decodeTableWord 40 0x2000000032 = some (.dlyms 50#32) ∧ decodeTableWord 37 0x1200000080 = some (.commutate 2#3 128#32) ∧
      decodeTableWord 38 0x0300000000 = some (.seths 1#2 true) := by decide

/-! ## Steps (95_test_vectors.md part 2) -/

/-- V-R1. -/
theorem test_reset_seq : (at' SeqCode.CS1).halted = false ∧ State.reset.seq = 0b00000#5 := by decide

/-- V-F1. -/
theorem test_cs1_clear : out .cs1 (at' SeqCode.CS1 [true, false]) (fun t => (t.seq, t.trace)) =
    some (SeqCode.CS2, [.rdPin .estop true, .rdPin .fault false]) := by decide

/-- V-F3: both pins are read, although one alone tells. -/
theorem test_cs1_fault : out .cs1 (driven SeqCode.CS1 .A .B [true, true]) (fun t => (t.seq, t.driver, t.trace.length)) =
    some (SeqCode.HENTER, DriverImage.allOff, 8) := by decide

/-- V-C2. -/
theorem test_cs2_active : out .cs2 (driven SeqCode.CS2 .A .B) (fun t => (t.trace, t.motor.currentLowSide, t.seq)) =
    some ([.setLs .B false 0#32], none, SeqCode.CS3) := by decide

/-- V-C1. -/
theorem test_cs2_silent : out .cs2 (at' SeqCode.CS2) (fun t => (t.trace, t.seq)) = some ([], SeqCode.CS3) := by decide

theorem test_cs3 : out .cs3 (at' SeqCode.CS3) (fun t => (t.trace, t.seq)) = some ([.dlyUs 5#32], SeqCode.CS4) := by decide

/-- V-C3: step 2, phases B high and C low. -/
theorem test_cs4 : out .cs4 ((driven SeqCode.CS4 .A .C).setStepIndex 2)
    (fun t => (t.trace, t.motor.currentHighSide, t.driver.hsOn)) =
    some ([.setHs .A false, .setHs .C false], some .A, ⟨false, false, false⟩) := by decide

theorem test_cs5 : out .cs5 (at' SeqCode.CS5) (fun t => (t.trace, t.seq)) = some ([.dlyUs 5#32], SeqCode.CS6) := by decide

/-- V-C5: step 4 drives C. -/
theorem test_cs6 : out .cs6 ((at' SeqCode.CS6).setStepIndex 4) (fun t => (t.motor.currentHighSide, t.driver.hsOn)) =
    some (some .C, ⟨false, false, true⟩) := by decide

theorem test_cs7 : out .cs7 (at' SeqCode.CS7) (fun t => (t.trace, t.seq)) = some ([.dlyUs 5#32], SeqCode.CS8) := by decide

/-- V-C4: step 3 enables the low side A. -/
theorem test_cs8 : out .cs8 ((at' SeqCode.CS8).setStepIndex 3)
    (fun t => (t.trace, t.motor.currentLowSide, t.driver.lsDuty, t.seq)) =
    some ([.setLs .A true 128#32], some .A, ⟨128#32, 0#32, 0#32⟩, SeqCode.WINIT) := by decide

/-- V-W1. -/
theorem test_winit : out .winit ((at' SeqCode.WINIT).setElapsed 200#32) (fun t => (t.elapsed, t.seq)) =
    some (0#32, SeqCode.WCHK) := by decide

/-- V-W2. -/
theorem test_wchk_goes_on : out .wchk ((at' SeqCode.WCHK).setElapsed 190#32) State.seq = some SeqCode.WFAULT := by decide

/-- V-W3. -/
theorem test_wchk_is_over : out .wchk ((at' SeqCode.WCHK).setElapsed 200#32) State.seq = some SeqCode.ADV := by decide

/-- V-W6. -/
theorem test_wfault_clear : out .wfault (at' SeqCode.WFAULT [true, false]) State.seq = some SeqCode.WINC := by decide

/-- V-W7. -/
theorem test_wfault_fault : out .wfault ((driven SeqCode.WFAULT .A .B [true, true]).setElapsed 50#32)
    (fun t => (t.seq, t.motor.currentHighSide, t.motor.stepIndex, t.elapsed)) =
    some (SeqCode.HENTER, none, 0, 50#32) := by decide

/-- V-W8. -/
theorem test_winc : out .winc (pressed SeqCode.WINC .inc ⟨true, true, 1000#32, 0#32⟩ [false] [1030#32])
    (fun t => (t.btnInc, t.motor.stepPeriodMs, t.seq)) =
    some (⟨false, false, 1030#32, 1030#32⟩, 190#32, SeqCode.WDEC) := by decide

/-- V-W9. -/
theorem test_wdec : out .wdec (pressed SeqCode.WDEC .dec ⟨true, true, 1000#32, 0#32⟩ [false] [1030#32])
    (fun t => (t.btnDec, t.motor.stepPeriodMs, t.seq)) =
    some (⟨false, false, 1030#32, 1030#32⟩, 210#32, SeqCode.WSLEEP) := by decide

/-- V-P1 to V-P9: the clamps, and no wrap at either end. -/
theorem test_speed_clamps :
    speedUp ex 30#32 = 20#32 ∧ speedUp ex 25#32 = 20#32 ∧ speedUp { ex with stepTimeMinMs := 0#32 } 5#32 = 0#32 ∧
      speedDown ex 490#32 = 500#32 ∧ speedDown ex 495#32 = 500#32 ∧
      speedDown { ex with stepTimeMaxMs := 0xFFFFFFFF#32 } 0xFFFFFFFC#32 = 0xFFFFFFFF#32 := by decide

/-- V-W10. -/
theorem test_wsleep : out .wsleep ((at' SeqCode.WSLEEP).setElapsed 40#32) (fun t => (t.trace, t.elapsed, t.seq)) =
    some ([.dlyMs 10#32], 50#32, SeqCode.WCHK) := by decide

/-- V-W11. -/
theorem test_adv_wraps : out .adv ((at' SeqCode.ADV).setStepIndex 5) (fun t => (t.motor.stepIndex, t.seq)) =
    some (0, SeqCode.CS1) := by decide

/-- V-W12. -/
theorem test_adv : out .adv ((at' SeqCode.ADV).setStepIndex 2) (fun t => t.motor.stepIndex) = some 3 := by decide

/-- V-H1. -/
theorem test_henter : out .henter (at' SeqCode.HENTER) (fun t => (t.trace.length, t.seq, t.halted)) =
    some (6, SeqCode.HPOLL, true) := by decide

/-- V-H2. -/
theorem test_hpoll_fault : out .hpoll (at' SeqCode.HPOLL [false, false]) State.seq = some SeqCode.HSLEEP := by decide

/-- V-H3. -/
theorem test_hpoll_clear : out .hpoll (at' SeqCode.HPOLL [true, false]) State.seq = some SeqCode.HEXIT := by decide

/-- V-H4. -/
theorem test_hsleep : out .hsleep (at' SeqCode.HSLEEP) (fun t => (t.trace, t.seq)) =
    some ([.dlyMs 50#32], SeqCode.HPOLL) := by decide

/-- V-H5. -/
theorem test_hexit : out .hexit (((at' SeqCode.HEXIT).setStepIndex 3).setStepPeriod 170#32)
    (fun t => (t.seq, t.halted, t.motor.stepIndex, t.motor.stepPeriodMs)) =
    some (SeqCode.CS1, false, 3, 170#32) := by decide

/-- V-F2. -/
theorem test_fchk : out .fchk (at' SeqCode.CS1 [false, false]) (fun t => (t.bus.reqAnswer, t.seq)) =
    some (some true, SeqCode.CS1) := by decide

/-- V-S1. -/
theorem test_safeoff : out .safeoff (driven SeqCode.WCHK .A .B) (fun t => (t.driver, t.trace.map Event.word)) =
    some (DriverImage.allOff, [0x0000000000#38, 0x0200000000#38, 0x0400000000#38, 0x0800000000#38, 0x0A00000000#38,
      0x0C00000000#38]) := by decide

/-- V-C3. -/
theorem test_commutate : out (.commutate 2#3 128#32) (driven SeqCode.CS1 .A .C [true, false]) (fun t => (t.driver, t.trace)) =
    some (⟨⟨false, true, false⟩, ⟨false, false, true⟩, ⟨0#32, 0#32, 128#32⟩⟩,
      [.rdPin .estop true, .rdPin .fault false, .setLs .C false 0#32, .dlyUs 5#32, .setHs .A false, .setHs .C false,
        .dlyUs 5#32, .setHs .B true, .dlyUs 5#32, .setLs .C true 128#32]) := by decide

/-- V-C8. -/
theorem test_commutate_fault : out (.commutate 3#3 128#32) (driven SeqCode.CS1 .B .C [false, false])
    (fun t => (t.seq, t.trace.length, t.bus.reqAnswer)) = some (SeqCode.HENTER, 8, some true) := by decide

/-- V-B3, on button 1; button 0 is left alone (V-B17). -/
theorem test_btnpoll : out (.btnpoll .dec) (pressed SeqCode.WDEC .dec ⟨true, true, 1000#32, 0#32⟩ [false] [1030#32])
    (fun t => (t.btnDec, t.btnInc, t.bus.reqAnswer, t.trace)) =
    some (⟨false, false, 1030#32, 1030#32⟩, ButtonInput.atReset, some true,
      [.rdPin .btnDec false, .rdTime 1030#32]) := by decide

/-- V-B12: the wrap of the clock. -/
theorem test_btnpoll_wrap : out (.btnpoll .inc) (pressed SeqCode.WINC .inc ⟨true, true, 4294967286#32, 0#32⟩ [false] [20#32])
    (fun t => t.btnInc) = some ⟨false, false, 20#32, 20#32⟩ := by decide

theorem test_seths : out (.seths 1#2 true) (at' SeqCode.CS1) (fun t => (t.driver.hsOn, t.motor.currentHighSide)) =
    some (⟨false, true, false⟩, none) := by decide

theorem test_seths_no_phase : refusedOf (exec (.seths 3#2 true) (at' SeqCode.CS1)) = some (.noSuchPhase 3#2) := by decide

theorem test_setls : out (.setls 2#2 true 7#32) (at' SeqCode.CS1) (fun t => (t.driver.lsEn, t.driver.lsDuty)) =
    some (⟨false, false, true⟩, ⟨0#32, 0#32, 7#32⟩) := by decide

/-- 93_implementation_defined.md U11: `MAX_DUTY` is 255 here; the range ends at it. -/
theorem test_setls_duty_range :
    refusedOf (exec (.setls 2#2 true 256#32) (at' SeqCode.CS1)) = some (.dutyAboveMax 256#32) ∧
      out (.setls 2#2 true 255#32) (at' SeqCode.CS1) (fun t => t.driver.lsDuty) = some ⟨0#32, 0#32, 255#32⟩ := by decide

theorem test_rdpin : out (.rdpin .btnDec) (at' SeqCode.CS1 [false, true]) (fun t => (t.bus.cmdAnswer, t.env.pinSamples)) =
    some (some (.bit false), [true]) := by decide

theorem test_rdtime : out .rdtime (at' SeqCode.CS1 [] [9#32]) (fun t => (t.bus.cmdAnswer, t.trace)) =
    some (some (.word 9#32), [.rdTime 9#32]) := by decide

theorem test_dlyms : out (.dlyms 10#32) (at' SeqCode.CS1) (fun t => t.trace.map Event.word) = some [0x200000000A#38] := by
  decide

theorem test_dlyus : out (.dlyus 5#32) (at' SeqCode.CS1) (fun t => t.trace.map Event.word) = some [0x2800000005#38] := by
  decide

/-- A reset request is served before a waiting word, and the history starts anew (log 9). -/
theorem test_step_reset :
    (nextOf (step { driven SeqCode.WCHK .A .B with env := { envOf [] [] with rst := true } })).map
      (fun t => (t.seq, t.motor.currentHighSide, t.trace.length, t.env.rst)) = some (SeqCode.CS1, none, 0, false) := by
  decide

/-- A word on the command port is taken before one on the request bus (log 5). -/
theorem test_step_port_first :
    (nextOf (step { at' SeqCode.CS1 with bus := { Bus.idle with cmd := some 0x2800000005#38, req := some 0x0800000000#37 } })).map
      (fun t => (t.trace, t.bus.req, t.bus.cmd)) = some ([.dlyUs 5#32], some 0x0800000000#37, none) := by decide

theorem test_step_reserved_seq : refusedOf (step (at' 0b01111#5)) = some (.reservedSeqCode 0b01111#5) := by decide

/-- 30_encoding.md R91: a legal word that waits gives such a state no successor either. -/
theorem test_step_reserved_seq_word_waits :
    refusedOf (step { at' 0b01111#5 [true, false] with bus := { Bus.idle with req := some 0x1000000080#37 } }) =
        some (.reservedSeqCode 0b01111#5) ∧
      refusedOf (step { at' 0b10100#5 with bus := { Bus.idle with cmd := some 0x2800000005#38 } }) =
        some (.reservedSeqCode 0b10100#5) := by decide

theorem test_fetch_word :
    (nextOf (step (State.reset.withFetchWord 8 14))).map (fun t => t.motor.stepIndex) = some 1 ∧
      (nextOf (step (State.reset.withFetchWord 40 0x0100000000))).map (fun t => t.trace) = some [.setHs .A true] := by
  decide

/-! ## Witnesses: states and operands that meet the premises of each statement -/

/-- The levels the next FCHK reads. -/
def levels (s : State) : Bool × Bool := (s.env.pinLevel .estop, s.env.afterPin.pinLevel .fault)

/-- The level and the reading the next BTNPOLL reads. -/
def pollInputs (b : Button) (s : State) : Bool × Word := (s.env.pinLevel b.pin, s.env.afterPin.clockNow)

theorem witness_ResetEventPutsEveryElementToItsResetValue :
    ({ driven SeqCode.WCHK .A .B with env := { envOf [] [] with rst := true } } : State).env.rst = true := by decide

/-- The clause on a repeated command, on and off. -/
theorem witness_SetHsDrivesOneHighSide :
    (driven SeqCode.CS1 .A .B).driver.hsOn.get .A = true ∧ (driven SeqCode.CS1 .A .B).driver.hsOn.get .B = false := by decide

/-- A duty at `MAX_DUTY` and one above it. -/
theorem witness_SetLsConfiguresOneLowSide :
    (255#32).toNat ≤ (at' SeqCode.CS1).config.maxDuty.toNat ∧ (at' SeqCode.CS1).config.maxDuty.toNat < (256#32).toNat := by
  decide

/-- Both reserved step selectors. -/
theorem witness_ReservedSelectorsAreRefused : 6 ≤ (6#3).toNat ∧ 6 ≤ (7#3).toNat := by decide

theorem witness_PortCommandIsOneEventOfItsWord :
    encode (.seths 1#2 true) = .port 0x0300000000#38 ∧ (nextOf (exec (.seths 1#2 true) (at' SeqCode.CS1))).isSome ∧
      encode (.rdpin .fault) = .port 0x1200000000#38 ∧ (nextOf (exec (.rdpin .fault) (at' SeqCode.CS1 [true]))).isSome := by
  decide

/-- All four pairs of levels (V-F1 to V-F4). -/
theorem witness_FaultCheckSamplesBothPins :
    levels (at' SeqCode.CS1 [true, false]) = (true, false) ∧ levels (at' SeqCode.CS1 [false, false]) = (false, false) ∧
      levels (at' SeqCode.CS1 [true, true]) = (true, true) ∧ levels (at' SeqCode.CS1 [false, true]) = (false, true) := by
  decide

theorem witness_ClearSampleLetsTheProgramGoOn :
    levels (at' SeqCode.WFAULT [true, false]) = (true, false) ∧ levels (at' SeqCode.HPOLL [false, false]) = (false, false) := by
  decide

theorem witness_FaultySampleEntersFaultHalted :
    levels (driven SeqCode.WFAULT .A .B [false, false]) = (false, false) ∧
      levels (driven SeqCode.CS1 .A .B [true, true]) = (true, true) := by decide

theorem witness_Cs2DisablesTheActiveLowSide :
    (driven SeqCode.CS2 .A .C).motor.currentLowSide = some .C ∧ (at' SeqCode.CS2).motor.currentLowSide = none := by decide

/-- Each of the three targets. -/
theorem witness_Cs4FloatsTheOtherHighSides :
    ((at' SeqCode.CS4).setStepIndex 0).targetHigh = .A ∧ ((at' SeqCode.CS4).setStepIndex 2).targetHigh = .B ∧
      ((at' SeqCode.CS4).setStepIndex 5).targetHigh = .C := by decide

theorem witness_Cs6ActivatesTheTargetHighSide :
    commutationTable ((at' SeqCode.CS6).setStepIndex 4).motor.stepIndex = (.C, .A) := by decide

theorem witness_Cs8EnablesTheTargetLowSide :
    commutationTable ((at' SeqCode.CS8).setStepIndex 5).motor.stepIndex = (.C, .B) := by decide

/-- From a driven state (V-C3) and from reset (V-C1). -/
theorem witness_CommutateAppliesTheStepWithDeadtimes :
    levels (driven SeqCode.CS1 .A .C [true, false]) = (true, false) ∧ commutationTable 2 = (.B, .C) ∧
      (.A : Phase) ≠ .B ∧ (.C : Phase) ≠ .B ∧ Phase.code .A < Phase.code .C ∧
      (driven SeqCode.CS1 .A .C).motor.currentLowSide = some .C ∧
      levels (at' SeqCode.CS1 [true, false]) = (true, false) ∧ (at' SeqCode.CS1).motor.currentLowSide = none := by decide

theorem witness_CommutateOnFaultForcesTheSafeState :
    levels (driven SeqCode.CS1 .B .C [false, false]) = (false, false) := by decide

theorem quiet_at (code : BitVec 5) (pins : List Bool) (times : List Word) : (at' code pins times).Quiet := ⟨rfl, rfl, rfl⟩

theorem witness_EightMicroOpsRefineCommutate :
    (at' SeqCode.CS1 [true, false]).Quiet ∧ (at' SeqCode.CS1 [true, false]).seq = 0b00000#5 ∧
      levels (at' SeqCode.CS1 [true, false]) = (true, false) ∧ (at' SeqCode.CS1 [false, true]).Quiet ∧
      levels (at' SeqCode.CS1 [false, true]) = (false, true) :=
  ⟨quiet_at _ _ _, rfl, by decide, quiet_at _ _ _, by decide⟩

/-- Rows Stable, same level: idle, held with `REPEAT_MS - 1` and `REPEAT_MS` (V-B1, V-B5, V-B6). -/
theorem witness_ButtonPoll_same_level :
    pollInputs .inc (pressed SeqCode.WINC .inc ⟨true, false, 0#32, 0#32⟩ [true] [500#32]) = (true, 500#32) ∧
      pollInputs .inc (pressed SeqCode.WINC .inc ⟨false, false, 1030#32, 1030#32⟩ [false] [1329#32]) = (false, 1329#32) ∧
      (1329#32 - 1030#32).toNat < ex.repeatMs.toNat ∧
      pollInputs .inc (pressed SeqCode.WINC .inc ⟨false, false, 1030#32, 1030#32⟩ [false] [1330#32]) = (false, 1330#32) ∧
      ex.repeatMs.toNat ≤ (1330#32 - 1030#32).toNat := by decide

/-- Rows Stable, other level: `DEBOUNCE_MS` positive (V-B1a), and 0 for a press and for a release (V-B15). -/
theorem witness_ButtonPoll_first_difference :
    pollInputs .dec (pressed SeqCode.WDEC .dec ⟨true, false, 0#32, 0#32⟩ [false] [1000#32]) = (false, 1000#32) ∧
      0 < ex.debounceMs.toNat ∧ ({ ex with debounceMs := 0#32 } : Config).debounceMs.toNat = 0 ∧
      pollInputs .dec { pressed SeqCode.WDEC .dec ⟨true, false, 0#32, 0#32⟩ [false] [77#32] with
        config := { ex with debounceMs := 0#32 } } = (false, 77#32) ∧
      pollInputs .dec { pressed SeqCode.WDEC .dec ⟨false, false, 0#32, 0#32⟩ [true] [77#32] with
        config := { ex with debounceMs := 0#32 } } = (true, 77#32) := by decide

/-- Rows Transitioning, other level: `DEBOUNCE_MS - 1` and `DEBOUNCE_MS`, press and release (V-B2, V-B3, V-B8). -/
theorem witness_ButtonPoll_transition :
    pollInputs .inc (pressed SeqCode.WINC .inc ⟨true, true, 1000#32, 0#32⟩ [false] [1029#32]) = (false, 1029#32) ∧
      (1029#32 - 1000#32).toNat < ex.debounceMs.toNat ∧
      pollInputs .inc (pressed SeqCode.WINC .inc ⟨true, true, 1000#32, 0#32⟩ [false] [1030#32]) = (false, 1030#32) ∧
      ex.debounceMs.toNat ≤ (1030#32 - 1000#32).toNat ∧
      pollInputs .inc (pressed SeqCode.WINC .inc ⟨false, true, 1400#32, 1330#32⟩ [true] [1430#32]) = (true, 1430#32) ∧
      ex.debounceMs.toNat ≤ (1430#32 - 1400#32).toNat := by decide

/-- Rows Transitioning, back at the stable level (V-B4, V-B9, V-B10). -/
theorem witness_ButtonPoll_bounce :
    pollInputs .inc (pressed SeqCode.WINC .inc ⟨true, true, 1000#32, 0#32⟩ [true] [1015#32]) = (true, 1015#32) ∧
      pollInputs .inc (pressed SeqCode.WINC .inc ⟨false, true, 1400#32, 1330#32⟩ [false] [1410#32]) = (false, 1410#32) ∧
      (1410#32 - 1330#32).toNat < ex.repeatMs.toNat ∧
      pollInputs .inc (pressed SeqCode.WINC .inc ⟨false, true, 1400#32, 1330#32⟩ [false] [1630#32]) = (false, 1630#32) ∧
      ex.repeatMs.toNat ≤ (1630#32 - 1330#32).toNat := by decide

/-- V-B18, `DEBOUNCE_MS = 30`. -/
theorem witness_PressIsAnsweredAfterDebounceMs :
    let s := at' SeqCode.WINC (List.replicate 31 false) ((List.range 31).map (fun k => 1000#32 + BitVec.ofNat 32 k))
    30 = s.config.debounceMs.toNat ∧ (s.button .inc).stableState = true ∧ (s.button .inc).trans = false ∧
      s.env.pinSamples = List.replicate (30 + 1) false ++ [] ∧
      s.env.clockReadings = (List.range (30 + 1)).map (fun k => 1000#32 + BitVec.ofNat 32 k) ++ [] :=
  ⟨rfl, rfl, rfl, rfl, rfl⟩

/-- Four polls of a button held since an event at 1030, `REPEAT_MS = 2`: the second and the fourth are answered with an event. -/
theorem witness_HeldButtonRepeatsEveryRepeatMs :
    let s := { pressed SeqCode.WINC .inc ⟨false, false, 1030#32, 1030#32⟩ (List.replicate 4 false)
        [1031#32, 1032#32, 1033#32, 1034#32] with config := { ex with repeatMs := 2#32 } }
    1 ≤ s.config.repeatMs.toNat ∧ (s.button .inc).stableState = false ∧ (s.button .inc).lastEventTime = 1030#32 ∧
      s.env.pinSamples = List.replicate 4 false ++ [] ∧
      s.env.clockReadings = (List.range 4).map (fun k => 1030#32 + BitVec.ofNat 32 (k + 1)) ++ [] ∧
      pollAnswers .inc 4 s = [false, true, false, true] := by decide

/-- A released idle button, whose two timestamps are free, and a held one in transition, whose two are not. -/
theorem witness_UnwrittenTimestampsAreNeverRead :
    (((at' SeqCode.WINC).button .inc).trans = true → 7#32 = ((at' SeqCode.WINC).button .inc).lastChangeTime) ∧
      (((at' SeqCode.WINC).button .inc).stableState = false → 9#32 = ((at' SeqCode.WINC).button .inc).lastEventTime) ∧
      ((pressed SeqCode.WINC .inc ⟨false, true, 7#32, 9#32⟩ [] []).button .inc).lastChangeTime = 7#32 ∧
      ((pressed SeqCode.WINC .inc ⟨false, true, 7#32, 9#32⟩ [] []).button .inc).lastEventTime = 9#32 := by decide

/-- V-W3 and V-W2: at the period, and one sleep before it. -/
theorem witness_WaitStartsAtZeroAndEndsAtThePeriod :
    (at' SeqCode.WCHK).motor.stepPeriodMs.toNat ≤ ((at' SeqCode.WCHK).setElapsed 200#32).elapsed.toNat ∧
      ((at' SeqCode.WCHK).setElapsed 199#32).elapsed.toNat < (at' SeqCode.WCHK).motor.stepPeriodMs.toNat := by decide

theorem witness_AdvAloneAdvancesTheStep :
    (0 : StepIndex).val = (((at' SeqCode.ADV).setStepIndex 5).motor.stepIndex.val + 1) % 6 ∧ Instr.cs6 ≠ .adv ∧
      (nextOf (exec .cs6 (at' SeqCode.CS6))).isSome := by decide

theorem witness_FaultHaltedForcesOffAtBothEnds :
    ((Instr.henter = .henter ∧ 0b10001#5 = 0b10001#5) ∨ (Instr.henter = .hexit ∧ 0b10001#5 = 0b00000#5)) ∧
      ((Instr.hexit = .henter ∧ 0b00000#5 = 0b10001#5) ∨ (Instr.hexit = .hexit ∧ 0b00000#5 = 0b00000#5)) := by decide

theorem ex_ok : ex.Ok := ⟨by decide, by decide, by decide, by decide, by decide⟩

/-- The ranges hold at every place of the program, the wait counter at 0. -/
theorem range_at (code : BitVec 5) (pins : List Bool) (times : List Word) : (at' code pins times).RangeInv :=
  ⟨quiet_at _ _ _, ex_ok, (by decide : (128#32).toNat ≤ (255#32).toNat), (by decide : (20#32).toNat ≤ (200#32).toNat),
    (by decide : (200#32).toNat ≤ (500#32).toNat), fun _ => (by decide : (0#32).toNat < (500#32).toNat)⟩

/-- A wait of `ceil(200 / 10) = 20` poll ticks. -/
theorem witness_WaitTakesCeilPeriodOverPollTicks :
    let s := at' SeqCode.WINIT (List.replicate 20 [true, false, true, true]).flatten
    s.RangeInv ∧ s.seq = 0b01000#5 ∧ 20 = (s.motor.stepPeriodMs.toNat + s.config.pollMs.toNat - 1) / s.config.pollMs.toNat ∧
      s.btnInc = ButtonInput.atReset ∧ s.btnDec = ButtonInput.atReset ∧
      s.env.pinSamples = (List.replicate 20 [true, false, true, true]).flatten ++ [] :=
  ⟨range_at _ _ _, rfl, rfl, rfl, rfl, rfl⟩

/-- The premises on the state are those of the statement before; here the premise on the history of one poll tick. -/
theorem witness_WaitLastsAtLeastThePeriodInTrueTime :
    EnvTimed 0 2 12 0 [.rdPin .estop true, .rdPin .fault false, .rdPin .btnInc true, .rdTime 0#32, .rdPin .btnDec true,
      .rdTime 0#32, .dlyMs 10#32] :=
  ⟨0, by decide, by decide, 0, by decide, by decide, 11, by decide, by decide, by decide, (by decide : (11 : Int) ≤ 12)⟩

/-- Two iterations. -/
theorem witness_IterationsVisitTheStepsInOrder :
    let s := at' SeqCode.CS1
      (List.replicate 2 ([true, false] ++ (List.replicate 20 [true, false, true, true]).flatten)).flatten
    s.RangeInv ∧ s.seq = 0b00000#5 ∧ 20 = (s.motor.stepPeriodMs.toNat + s.config.pollMs.toNat - 1) / s.config.pollMs.toNat ∧
      s.btnInc = ButtonInput.atReset ∧ s.btnDec = ButtonInput.atReset ∧
      s.env.pinSamples =
        (List.replicate 2 ([true, false] ++ (List.replicate 20 [true, false, true, true]).flatten)).flatten ++ [] ∧
      (1 : StepIndex).val = (s.motor.stepIndex.val + 1) % 6 :=
  ⟨range_at _ _ _, rfl, rfl, rfl, rfl, rfl, rfl⟩

/-- Program 2 of 95_test_vectors.md: a fault in the wait, two more faulty polls, a clear one. -/
theorem witness_FaultInTheWaitRecoversAtTheSameStep :
    let s := at' SeqCode.WFAULT [false, false, false, false, true, true, true, false]
    s.Quiet ∧ s.seq = 0b01010#5 ∧
      (∀ q ∈ [(false, false), (false, false), (true, true)], q.1 = false ∨ q.2 = true) ∧
      s.env.pinSamples =
        ([(false, false), (false, false), (true, true)].map (fun q => [q.1, q.2])).flatten ++ [true, false] ++ [] :=
  ⟨quiet_at _ _ _, rfl, by decide, rfl⟩

/-- Also with a reset request waiting. -/
theorem witness_TheProgramNeverStops :
    (at' SeqCode.HPOLL).bus = Bus.idle ∧ (at' SeqCode.HPOLL).SeqLegal ∧
      ({ at' SeqCode.HPOLL with env := { envOf [] [] with rst := true } } : State).SeqLegal :=
  ⟨rfl, ⟨.hpoll, rfl⟩, ⟨.hpoll, rfl⟩⟩

/-- One state for each of the six clauses. -/
theorem witness_StepRunsTheDecodedInstruction :
    (∀ c ∈ [CodeWord.port 0x2800000005#38, .request 0x0800000000#37, .seq 0b10011#5, .seq 0b01111#5,
        .port 0x3000000000#38, .request 0x1600000080#37], ((at' SeqCode.CS1).placeWord c).env.rst = false) ∧
      instrOf (.seq ((at' SeqCode.CS1).placeWord (.port 0x2800000005#38)).seq) = some .cs1 ∧
      instrOf (.seq ((at' SeqCode.CS1).placeWord (.request 0x0800000000#37)).seq) = some .cs1 ∧
      ((at' SeqCode.CS1).placeWord (.port 0x3000000000#38)).bus.cmd = some 0x3000000000#38 ∧
      instrOf (.port 0x3000000000#38) = none ∧
      ((at' SeqCode.CS1).placeWord (.request 0x1600000080#37)).bus = { Bus.idle with req := some 0x1600000080#37 } ∧
      instrOf (.request 0x1600000080#37) = none ∧
      ((at' SeqCode.CS1).placeWord (.port 0x2800000005#38)).bus.cmd = some 0x2800000005#38 ∧
      instrOf (.port 0x2800000005#38) = some (.dlyus 5#32) ∧
      ((at' SeqCode.CS1).placeWord (.request 0x0800000000#37)).bus = { Bus.idle with req := some 0x0800000000#37 } ∧
      instrOf (.request 0x0800000000#37) = some .safeoff ∧
      ((at' SeqCode.CS1).placeWord (.seq 0b10011#5)).bus = Bus.idle ∧ instrOf (.seq 0b10011#5) = some .hexit ∧
      ((at' SeqCode.CS1).placeWord (.seq 0b01111#5)).bus = Bus.idle ∧ instrOf (.seq 0b01111#5) = none := by decide

theorem witness_DecodeOfEncodeIsTheInstruction :
    (Instr.commutate 5#3 0xFFFFFFFF#32).wellFormed = true ∧ (Instr.setls 2#2 true 0xFFFFFFFF#32).wellFormed = true := by
  decide

theorem witness_DecodedWordsAreTheEncodings :
    instrOf (.request 0x15FFFFFFFF#37) = some (.commutate 5#3 0xFFFFFFFF#32) ∧
      instrOf (.port 0x0DFFFFFFFF#38) = some (.setls 2#2 true 0xFFFFFFFF#32) := by decide

/-- Each element is changed by some instruction named for it. -/
theorem witness_OnlyTheNamedInstructionsWriteAnElement :
    out .winc (pressed SeqCode.WINC .inc ⟨true, true, 1000#32, 0#32⟩ [false] [1030#32])
        (fun t => (t.motor.stepPeriodMs, t.btnInc)) = some (190#32, ⟨false, false, 1030#32, 1030#32⟩) ∧
      out .adv (at' SeqCode.ADV) (fun t => t.motor.stepIndex) = some 1 ∧
      out .wsleep (at' SeqCode.WSLEEP) State.elapsed = some 10#32 ∧
      out (.btnpoll .dec) (at' SeqCode.WINC [false] [1#32]) (fun t => t.btnDec) = some ⟨true, true, 1#32, 0#32⟩ ∧
      out .cs6 (at' SeqCode.CS6) (fun t => (t.motor.currentHighSide, t.seq)) = some (some .A, SeqCode.CS7) ∧
      out .cs8 (at' SeqCode.CS8) (fun t => t.motor.currentLowSide) = some (some .B) ∧
      out .fchk (at' SeqCode.CS1 [true, false]) (fun t => t.bus.reqAnswer) = some (some false) := by decide

/-- Each kind of command is issued by some micro-operation. -/
theorem witness_EachMicroOpIssuesOnlyItsCommands :
    out .cs4 (at' SeqCode.CS4) State.trace = some [.setHs .B false, .setHs .C false] ∧
      out .cs6 (at' SeqCode.CS6) State.trace = some [.setHs .A true] ∧
      out .cs2 (driven SeqCode.CS2 .A .B) State.trace = some [.setLs .B false 0#32] ∧
      out .cs8 (at' SeqCode.CS8) State.trace = some [.setLs .B true 128#32] ∧
      out .hpoll (at' SeqCode.HPOLL [true, false]) State.trace = some [.rdPin .estop true, .rdPin .fault false] ∧
      out .winc (at' SeqCode.WINC [true] [3#32]) State.trace = some [.rdPin .btnInc true, .rdTime 3#32] ∧
      out .wdec (at' SeqCode.WDEC [true] [3#32]) State.trace = some [.rdPin .btnDec true, .rdTime 3#32] ∧
      out .cs7 (at' SeqCode.CS7) State.trace = some [.dlyUs 5#32] ∧
      out .wsleep (at' SeqCode.WSLEEP) State.trace = some [.dlyMs 10#32] := by decide

theorem witness_HistoryGrowsAndTheImageIsItsFold :
    (at' SeqCode.CS6).env.rst = false ∧ (nextOf (step (at' SeqCode.CS6))).isSome := by decide

/-- An entry and a return. -/
theorem witness_HaltedChangesOnlyAtEntryAndReturn :
    (at' SeqCode.WFAULT [false, false]).Quiet ∧ (at' SeqCode.WFAULT [false, false]).halted = false ∧
      (nextOf (step (at' SeqCode.WFAULT [false, false]))).map State.halted = some true ∧
      (at' SeqCode.HEXIT).Quiet ∧ (at' SeqCode.HEXIT).halted = true ∧
      (nextOf (step (at' SeqCode.HEXIT))).map State.halted = some false :=
  ⟨quiet_at _ _ _, by decide, by decide, quiet_at _ _ _, by decide, by decide⟩

/-- The machine in the middle of step 0: the high side A is on, the low sides are off, the history is that of V-C1. -/
def midStep : State :=
  { at' SeqCode.CS7 with
    motor := { (at' SeqCode.CS7).motor with currentHighSide := some .A }
    driver := { DriverImage.allOff with hsOn := ⟨true, false, false⟩ }
    trace := [.rdPin .estop true, .rdPin .fault false, .dlyUs 5#32, .setHs .B false, .setHs .C false, .dlyUs 5#32,
      .setHs .A true] }

/-- The invariant of the driver image holds in a state in which a switch is on, which has a next state. -/
theorem witness_StepKeepsTheDriveInvariant : midStep.DriveInv ∧ (nextOf (step midStep)).isSome := by
  refine ⟨⟨⟨rfl, rfl, rfl⟩, ⟨⟨?_, ?_, ?_⟩, ?_, ?_⟩, ?_, fun _ => rfl, ?_, fun _ => rfl, ?_⟩, by decide⟩
  · intro p q; cases p <;> cases q <;> decide
  · intro p q; cases p <;> cases q <;> decide
  · intro p; cases p <;> decide
  · intro p; cases p <;> decide
  · intro p; cases p <;> decide
  · intro p; cases p <;> decide
  · intro _ p; cases p <;> decide
  · decide

/-- The invariant of the history holds in a state whose history holds an on command. -/
theorem witness_StepKeepsTheTraceInvariant : midStep.TraceInv ∧ (nextOf (step midStep)).isSome := by
  have hg : HighOnGuarded 5#32 [.rdPin .estop true, .rdPin .fault false, .dlyUs 5#32, .setHs .B false, .setHs .C false,
      .dlyUs 5#32] .A := ⟨[], [], .inl rfl, rfl⟩
  have before : ∀ (l r : List Event) (x : Event),
      [Event.rdPin .estop true, .rdPin .fault false, .dlyUs 5#32, .setHs .B false, .setHs .C false, .dlyUs 5#32] = l ++ x :: r →
      (∀ h, x ≠ .setHs h true) ∧ ∀ p d, x ≠ .setLs p true d := by
    intro l r x h
    have hx : x ∈ [Event.rdPin .estop true, .rdPin .fault false, .dlyUs 5#32, .setHs .B false, .setHs .C false,
        .dlyUs 5#32] := by rw [h]; simp
    simp only [List.mem_cons, List.not_mem_nil, or_false] at hx
    rcases hx with rfl | rfl | rfl | rfl | rfl | rfl <;> simp
  refine ⟨⟨⟨rfl, rfl, rfl⟩, ⟨?_, ?_⟩, ?_, ?_, ?_, ?_, ?_, fun _ => ⟨_, hg, rfl⟩, ?_⟩, by decide⟩
  · intro l r h heq
    rcases occurs_last_or_before (old := [.rdPin .estop true, .rdPin .fault false, .dlyUs 5#32, .setHs .B false,
      .setHs .C false, .dlyUs 5#32]) (e := .setHs .A true) heq with ⟨rfl, he⟩ | ⟨r', h'⟩
    · cases he; exact hg
    · exact absurd rfl ((before _ _ _ h').1 h)
  · intro l r p d heq
    rcases occurs_last_or_before (old := [.rdPin .estop true, .rdPin .fault false, .dlyUs 5#32, .setHs .B false,
      .setHs .C false, .dlyUs 5#32]) (e := .setHs .A true) heq with ⟨rfl, he⟩ | ⟨r', h'⟩
    · cases he
    · exact absurd rfl ((before _ _ _ h').2 p d)
  all_goals (intro h; exact absurd h (by decide))

/-- For DriveInvariantHoldsAfterReset, and for TraceInvariantHoldsAfterReset and NoSwitchIsEverTurnedOnUnguarded. -/
theorem witness_DriveInvariantHoldsAfterReset :
    (envOf [true] [0#32]).rst = false ∧ EnvBootAllOff (State.atReset ex DriverImage.allOff (envOf [true] [0#32])) :=
  ⟨rfl, rfl⟩

theorem witness_EveryRunIsFreeOfShootThrough : midStep.DriveInv ∧ midStep.SeqLegal :=
  ⟨witness_StepKeepsTheDriveInvariant.1, .cs7, rfl⟩

theorem witness_StepKeepsTheRangeInvariant :
    (at' SeqCode.WSLEEP).RangeInv ∧ (nextOf (step (at' SeqCode.WSLEEP))).isSome := ⟨range_at _ _ _, by decide⟩

theorem witness_RangeInvariantHoldsAfterReset : ex.Ok ∧ (envOf [] []).rst = false := ⟨ex_ok, rfl⟩

/-- The sleep, and a command with a duty. -/
theorem witness_CounterDoesNotOverflowAndDutyIsInRange :
    (at' SeqCode.WSLEEP).RangeInv ∧ (nextOf (step (at' SeqCode.WSLEEP))).isSome ∧ (at' SeqCode.CS8).RangeInv ∧
      (nextOf (step (at' SeqCode.CS8))).map State.trace = some ((at' SeqCode.CS8).trace ++ [.setLs .B true 128#32]) :=
  ⟨range_at _ _ _, by decide, range_at _ _ _, by decide⟩

end Sys2Proof.Tests
end

section
/-! PROOFS. The step, and the ranges of the numbers (family 00_scope.md).

What a waiting word makes of a fetch and of a step; the part of the state the range invariant reads, and what each shared
operation leaves of it; the settled obligations O37, O52 and O53. -/

namespace Sys2Proof.Machine

/-! ## A refused word names the place it was found at -/

theorem decodeSeq_eq_error {code : BitVec 5} {e : DecodeError} (h : decodeSeq code = .error e) :
    e = .reservedSeq code := by
  unfold decodeSeq at h
  split at h <;> cases h
  rfl

theorem decodeReq_eq_error {w : BitVec 37} {e : DecodeError} (h : decodeReq w = .error e) : e = .reservedRequest w := by
  unfold decodeReq decodeReqFields at h
  split at h
  all_goals
    split at h
    · cases h
    · cases h; rfl

theorem decodeCmd_eq_error {w : BitVec 38} {e : DecodeError} (h : decodeCmd w = .error e) : e = .reservedCommand w := by
  unfold decodeCmd decodeCmdFields at h
  split at h
  case h_7 => cases h; rfl
  all_goals
    split at h
    · cases h
    · cases h; rfl

/-! ## The step, from what is fetched -/

theorem State.SeqLegal.fetch_command {s : State} (hl : s.SeqLegal) {w : BitVec 38} (hc : s.bus.cmd = some w) :
    s.fetch = (.port w, { s with bus := { s.bus with cmd := none } }) := by
  obtain ⟨i, hi⟩ := hl
  simp [s.fetch_of_legal hi, State.takeWord, hc, State.setBus]

theorem State.SeqLegal.fetch_request {s : State} (hl : s.SeqLegal) {w : BitVec 37} (hc : s.bus.cmd = none)
    (hq : s.bus.req = some w) : s.fetch = (.request w, { s with bus := { s.bus with req := none } }) := by
  obtain ⟨i, hi⟩ := hl
  simp [s.fetch_of_legal hi, State.takeWord, hc, hq, State.setBus]

theorem step_of_fetch_ok {s u : State} {c : CodeWord} {i : Instr} (hr : s.env.rst = false) (hf : s.fetch = (c, u))
    (hd : decode c = .ok i) : step s = exec i u := by
  simp [step, hr, hf, hd]

theorem step_of_fetch_error {s u : State} {c : CodeWord} {e : DecodeError} (hr : s.env.rst = false)
    (hf : s.fetch = (c, u)) (hd : decode c = .error e) : step s = .refused (refusalOf e) := by
  simp [step, hr, hf, hd]

/-- Settles O37: each clause is what is fetched there, decoded, and for a reserved word the name of its error. -/
theorem stepRunsTheDecodedInstruction : Obligations.StepRunsTheDecodedInstruction := by
  unfold Obligations.StepRunsTheDecodedInstruction
  intro s hr
  refine ⟨?command, ?request, ?seq, ?reservedSeq, ?reservedCommand, ?reservedRequest⟩
  case command => exact fun w i hl hc hd => step_of_fetch_ok hr (hl.fetch_command hc) hd
  case request => exact fun w i hl hc hq hd => step_of_fetch_ok hr (hl.fetch_request hc hq) hd
  case seq => exact fun i hc hq hd => step_eq_of_quiet s hr hc hq hd
  case reservedSeq =>
    intro e hd
    rw [step_of_reserved s hr hd, decodeSeq_eq_error hd]
    rfl
  case reservedCommand =>
    intro w e hl hc hd
    rw [step_of_fetch_error hr (hl.fetch_command hc) hd, decodeCmd_eq_error hd]
    rfl
  case reservedRequest =>
    intro w e hl hc hq hd
    rw [step_of_fetch_error hr (hl.fetch_request hc hq) hd, decodeReq_eq_error hd]
    rfl

/-! ## What the range invariant reads of a state -/

/-- What `State.RangeInv` reads, `seq` and `elapsed` aside: no micro-operation but WINC and WDEC changes any of it. -/
structure RangeView where
  bus          : Bus
  rst          : Bool
  config       : Config
  pwmLevel     : Word
  stepPeriodMs : Word

def State.rangeView (s : State) : RangeView where
  bus := s.bus
  rst := s.env.rst
  config := s.config
  pwmLevel := s.motor.pwmLevel
  stepPeriodMs := s.motor.stepPeriodMs

/-- The places of the program inside a poll tick, where `elapsed` still has room for one sleep (10_state.md R36). -/
def tickCodes : List (BitVec 5) := [SeqCode.WFAULT, SeqCode.WINC, SeqCode.WDEC, SeqCode.WSLEEP]

section
variable (s : State)

@[simp] theorem rangeView_setSeq (c : BitVec 5) : (s.setSeq c).rangeView = s.rangeView := rfl

@[simp] theorem rangeView_setElapsed (w : Word) : (s.setElapsed w).rangeView = s.rangeView := rfl

@[simp] theorem rangeView_setStepIndex (i : StepIndex) : (s.setStepIndex i).rangeView = s.rangeView := rfl

@[simp] theorem rangeView_delayMs (n : Word) : (delayMs n s).rangeView = s.rangeView := rfl

@[simp] theorem rangeView_deadtime : (deadtime s).rangeView = s.rangeView := rfl

@[simp] theorem rangeView_otherHighSidesOff (h : Phase) : (otherHighSidesOff h s).rangeView = s.rangeView := rfl

@[simp] theorem rangeView_highSideOn (h : Phase) : (highSideOn h s).rangeView = s.rangeView := rfl

@[simp] theorem rangeView_lowSideOn (l : Phase) (duty : Word) : (lowSideOn l duty s).rangeView = s.rangeView := rfl

@[simp] theorem rangeView_lowSideOff : (lowSideOff s).rangeView = s.rangeView := by rw [lowSideOff_eq]; rfl

@[simp] theorem rangeView_safeOff : (safeOff s).rangeView = s.rangeView := by rw [safeOff_eq]; rfl

@[simp] theorem rangeView_faultCheck : (faultCheck s).2.rangeView = s.rangeView := by rw [faultCheck_snd]; rfl

@[simp] theorem rangeView_pollButton (b : Button) : (pollButton b s).2.rangeView = s.rangeView := by
  rw [pollButton_snd]; cases b <;> rfl

/-! A fault sample and a button poll touch neither `seq` nor `elapsed`. -/

@[simp] theorem faultCheck_seq : (faultCheck s).2.seq = s.seq := by rw [faultCheck_snd]

@[simp] theorem faultCheck_elapsed : (faultCheck s).2.elapsed = s.elapsed := by rw [faultCheck_snd]

@[simp] theorem pollButton_seq (b : Button) : (pollButton b s).2.seq = s.seq := by
  rw [pollButton_snd, State.setButton_seq]

@[simp] theorem pollButton_elapsed (b : Button) : (pollButton b s).2.elapsed = s.elapsed := by
  rw [pollButton_snd, State.setButton_elapsed]

@[simp] theorem pollButton_config (b : Button) : (pollButton b s).2.config = s.config := by
  rw [pollButton_snd, State.setButton_config]

end

/-! ## The speed stays between its bounds (43_control_loop.md R182, R183) -/

/-- `w` lies between `STEP_TIME_MIN_MS` and `STEP_TIME_MAX_MS`. -/
def PeriodInRange (c : Config) (w : Word) : Prop :=
  c.stepTimeMinMs.toNat ≤ w.toNat ∧ w.toNat ≤ c.stepTimeMaxMs.toNat

theorem speedUp_inRange {c : Config} {w : Word} (h : PeriodInRange c w) : PeriodInRange c (speedUp c w) := by
  obtain ⟨hlo, hhi⟩ := h
  unfold PeriodInRange
  rw [speedUp_toNat]
  split <;> omega

theorem speedDown_inRange {c : Config} {w : Word} (h : PeriodInRange c w) :
    PeriodInRange c (speedDown c w) := by
  obtain ⟨hlo, hhi⟩ := h
  unfold PeriodInRange
  rw [speedDown_toNat]
  split <;> omega

/-! ## Keeping the invariant -/

namespace State.RangeInv

variable {s u : State}

theorem period_inRange (h : s.RangeInv) : PeriodInRange s.config s.motor.stepPeriodMs :=
  ⟨h.period_ge_min, h.period_le_max⟩

/-- A state that agrees with `s` on what the invariant reads meets it, once its own `elapsed` does. -/
theorem of_view (h : s.RangeInv) (hv : u.rangeView = s.rangeView)
    (he : u.seq ∈ tickCodes → u.elapsed.toNat < s.config.stepTimeMaxMs.toNat) : u.RangeInv := by
  simp only [State.rangeView, RangeView.mk.injEq] at hv
  obtain ⟨hbus, hrst, hconfig, hpwm, hperiod⟩ := hv
  constructor
  case quiet => exact ⟨hbus ▸ h.quiet.no_request, hbus ▸ h.quiet.no_command, hrst ▸ h.quiet.no_reset⟩
  case config_ok => exact hconfig ▸ h.config_ok
  case duty_in_range => rw [hpwm, hconfig]; exact h.duty_in_range
  case period_ge_min => rw [hperiod, hconfig]; exact h.period_ge_min
  case period_le_max => rw [hperiod, hconfig]; exact h.period_le_max
  case elapsed_in_tick => rw [hconfig]; exact he

/-- Outside a poll tick the invariant asks nothing of `elapsed`. -/
theorem after_setSeq_outside_tick (h : s.RangeInv) (hv : u.rangeView = s.rangeView) {c : BitVec 5} (hc : c ∉ tickCodes) :
    (u.setSeq c).RangeInv :=
  h.of_view hv fun hin => absurd hin hc

/-- Inside a poll tick the wait counter stays as it was. -/
theorem after_setSeq_in_tick (h : s.RangeInv) (hs : s.seq ∈ tickCodes) (c : BitVec 5) : (s.setSeq c).RangeInv :=
  h.of_view rfl fun _ => h.elapsed_in_tick hs

/-- An operation that leaves `seq` and `elapsed` alone too keeps the invariant. -/
theorem of_view_of_same_place (h : s.RangeInv) (hv : u.rangeView = s.rangeView) (hseq : u.seq = s.seq)
    (helapsed : u.elapsed = s.elapsed) : u.RangeInv :=
  h.of_view hv (by rw [hseq, helapsed]; exact h.elapsed_in_tick)

theorem after_pollButton (h : s.RangeInv) (b : Button) : (pollButton b s).2.RangeInv :=
  h.of_view_of_same_place (by simp) (by simp) (by simp)

theorem after_setStepPeriod (h : s.RangeInv) {w : Word} (hw : PeriodInRange s.config w) :
    (s.setStepPeriod w).RangeInv where
  quiet := ⟨h.quiet.no_request, h.quiet.no_command, h.quiet.no_reset⟩
  config_ok := h.config_ok
  duty_in_range := h.duty_in_range
  period_ge_min := hw.1
  period_le_max := hw.2
  elapsed_in_tick := h.elapsed_in_tick

/-- WINC and WDEC alike: poll a button, on an event take a period in range, go on inside the tick. -/
theorem after_pollThenSetPeriod (h : s.RangeInv) (hs : s.seq ∈ tickCodes) (b : Button) {w : Word}
    (hw : PeriodInRange s.config w) (c : BitVec 5) :
    ((if (pollButton b s).1 then (pollButton b s).2.setStepPeriod w else (pollButton b s).2).setSeq c).RangeInv := by
  have hpoll := h.after_pollButton b
  have hseq : (pollButton b s).2.seq ∈ tickCodes := by rwa [pollButton_seq]
  split
  · exact (hpoll.after_setStepPeriod (w := w) (by rwa [pollButton_config])).after_setSeq_in_tick hseq c
  · exact hpoll.after_setSeq_in_tick hseq c

/-- A tick is entered only while the wait is not over, and the period is at most `STEP_TIME_MAX_MS` (R172). -/
theorem after_waitCheck (h : s.RangeInv) :
    (s.setSeq (if waitIsOver s.elapsed s.motor.stepPeriodMs then SeqCode.ADV else SeqCode.WFAULT)).RangeInv := by
  split
  case isTrue => exact h.after_setSeq_outside_tick rfl (by decide)
  case isFalse hwait =>
    have hlt : s.elapsed.toNat < s.motor.stepPeriodMs.toNat := by simpa [waitIsOver] using hwait
    exact h.of_view rfl fun _ => hlt.trans_le h.period_le_max

/-- Every micro-operation keeps the invariant. -/
theorem after_exec {t : State} {i : Instr} (h : s.RangeInv) (hd : decodeSeq s.seq = .ok i)
    (hx : exec i s = .next t) : t.RangeInv := by
  have hcode := decodeSeq_encode hd
  cases i with
  | cs1 =>
    rcases execCs1_cases hx with ⟨-, rfl⟩ | ⟨-, rfl⟩
    · exact h.after_setSeq_outside_tick (by simp) (by decide)
    · exact h.after_setSeq_outside_tick (by simp) (by decide)
  | wfault =>
    have hseq : SeqCode.WFAULT = s.seq := CodeWord.seq.inj hcode
    rcases execWfault_cases hx with ⟨-, rfl⟩ | ⟨-, rfl⟩
    · exact h.after_setSeq_outside_tick (by simp) (by decide)
    · have hsame : (faultCheck s).2.RangeInv := h.of_view_of_same_place (by simp) (by simp) (by simp)
      exact hsame.after_setSeq_in_tick (by rw [faultCheck_seq, ← hseq]; decide) _
  | wchk => cases hx; exact h.after_waitCheck
  | winc =>
    have hseq : SeqCode.WINC = s.seq := CodeWord.seq.inj hcode
    cases hx
    exact h.after_pollThenSetPeriod (hseq ▸ by decide) .inc (speedUp_inRange h.period_inRange) _
  | wdec =>
    have hseq : SeqCode.WDEC = s.seq := CodeWord.seq.inj hcode
    cases hx
    exact h.after_pollThenSetPeriod (hseq ▸ by decide) .dec (speedDown_inRange h.period_inRange) _
  | hpoll =>
    cases hx
    split
    · exact h.after_setSeq_outside_tick (by simp) (by decide)
    · exact h.after_setSeq_outside_tick (by simp) (by decide)
  | cs2 | cs3 | cs4 | cs5 | cs6 | cs7 | cs8 | winit | wsleep | adv | henter | hsleep | hexit =>
    cases hx
    exact h.after_setSeq_outside_tick (by simp) (by decide)
  | fchk | safeoff | commutate | btnpoll | seths | setls | rdpin | rdtime | dlyms | dlyus => cases hcode

end State.RangeInv

/-- Settles O52: an undisturbed step runs the micro-operation in `seq`, and each of them keeps the invariant. -/
theorem stepKeepsTheRangeInvariant : Obligations.StepKeepsTheRangeInvariant := by
  unfold Obligations.StepKeepsTheRangeInvariant
  intro s t h hstep
  obtain ⟨i, hd, hx⟩ := h.quiet.step_inv hstep
  exact h.after_exec hd hx

/-! ## Reset -/

theorem State.atReset_rangeInv {c : Config} (hc : c.Ok) (d : DriverImage) {e : Environment} (he : e.rst = false) :
    (State.atReset c d e).RangeInv where
  quiet := ⟨rfl, rfl, he⟩
  config_ok := hc
  duty_in_range := hc.pwmInit_le_maxDuty
  period_ge_min := hc.min_le_init
  period_le_max := hc.init_le_max
  elapsed_in_tick := fun hin => absurd (show SeqCode.CS1 ∈ tickCodes from hin) (by decide)

/-- Settles O53: the free parameters meet the constraints of R7, as every configuration of the statement does. -/
theorem rangeInvariantHoldsAfterReset : Obligations.RangeInvariantHoldsAfterReset := by
  unfold Obligations.RangeInvariantHoldsAfterReset
  exact ⟨State.atReset_rangeInv Config.params_ok DriverImage.boot rfl, fun c d e hc he => State.atReset_rangeInv hc d he⟩

end Sys2Proof.Machine
end

section
/-! PROOFS. What an instruction writes, which events it issues, and the driver invariant (family 10_state.md).

The frame of every instruction; its events, said once by `instrEvents`; when `halted` changes; the driver invariant as
recorded switches plus what each place of the program asks; the settled obligations O1, O8, O25, O42, O44, O45, O46, O48
and O54. -/

namespace Sys2Proof.Machine

/-! ## Reset -/

/-- Settles O1: every entry is `State.atReset` evaluated; the free parameters meet R7. -/
theorem resetLoadsTheTableOfResetValues : Obligations.ResetLoadsTheTableOfResetValues := by
  unfold Obligations.ResetLoadsTheTableOfResetValues
  exact ⟨rfl, rfl, rfl, rfl, rfl, rfl, rfl, rfl, Config.params_ok⟩

/-! ## Instructions with more than one outcome -/

/-- All that SETHS taken from the port can do (44_driver_port.md R201, 30_encoding.md R93). -/
theorem execSeths_next_iff {sel : BitVec 2} {on : Bool} {s t : State} :
    exec (.seths sel on) s = .next t ↔ ∃ p, phaseOfCode sel = some p ∧ t = (setHs p on s).answerCommand none := by
  simp only [exec, execSeths]
  cases phaseOfCode sel with
  | none => simp
  | some p => simp [eq_comm]

/-- All that COMMUTATE can do (41_commutation.md R121, 30_encoding.md R92). -/
theorem execCommutate_next_iff {k : BitVec 3} {d : Word} {s t : State} :
    exec (.commutate k d) s = .next t ↔
      ∃ j, stepOfCode k = some j ∧ t = (commutate j d s).2.answerRequest (some (commutate j d s).1) := by
  simp only [exec, execCommutate]
  cases stepOfCode k with
  | none => simp
  | some j => simp [eq_comm]

/-! ## Which instruction writes which element -/

/-- Settles O42: instruction by instruction, from the equation of the operation it is made of. -/
theorem onlyTheNamedInstructionsWriteAnElement : Obligations.OnlyTheNamedInstructionsWriteAnElement := by
  unfold Obligations.OnlyTheNamedInstructionsWriteAnElement
  intro i s t hx
  cases i with
  | cs1 =>
    rcases execCs1_cases hx with ⟨-, rfl⟩ | ⟨-, rfl⟩
    · simp [enterFaultHalted_eq, faultCheck_snd, encode]
    · simp [faultCheck_snd, encode]
  | wfault =>
    rcases execWfault_cases hx with ⟨-, rfl⟩ | ⟨-, rfl⟩
    · simp [enterFaultHalted_eq, faultCheck_snd, encode]
    · simp [faultCheck_snd, encode]
  | cs2 => cases hx; simp [lowSideOff_eq, encode]
  | cs3 | cs5 | cs7 => cases hx; simp [deadtime_eq, encode]
  | cs4 => cases hx; simp [otherHighSidesOff_eq, encode]
  | cs6 => cases hx; simp [highSideOn_eq, encode]
  | cs8 => cases hx; simp [lowSideOn_eq, encode]
  | winit | wchk | adv => cases hx; simp [encode]
  | winc | wdec =>
    cases hx
    split
    · simp [pollButton_snd, State.setButton, encode]
    · simp [pollButton_snd, State.setButton, encode]
  | wsleep | hsleep => cases hx; simp [delayMs, encode]
  | hpoll | fchk => cases hx; simp [faultCheck_snd, encode]
  | henter | safeoff => cases hx; simp [safeOff_eq, encode]
  | hexit => cases hx; simp [leaveFaultHalted_eq, encode]
  | commutate k d =>
    obtain ⟨j, -, rfl⟩ := execCommutate_next_iff.mp hx
    cases hf : (faultCheck s).1 with
    | false => simp [commutate_of_clear s j d hf, encode]
    | true => simp [commutate_of_fault s j d hf, enterFaultHalted_eq, faultCheck_snd, encode]
  | btnpoll b =>
    cases hx
    cases b with
    | inc | dec => simp [pollButton_snd, State.setButton, encode]
  | seths sel on => obtain ⟨p, -, rfl⟩ := execSeths_next_iff.mp hx; simp [setHs, encode]
  | setls sel en d => obtain ⟨p, -, -, rfl⟩ := (execSetls_next_iff s).mp hx; simp [setLs, encode]
  | rdpin pin => cases hx; simp [readPin, encode]
  | rdtime => cases hx; simp [readTime, encode]
  | dlyms n => cases hx; simp [delayMs, encode]
  | dlyus n => cases hx; simp [delayUs, encode]

/-- Nothing an instruction does makes a word wait or asks for a reset. -/
theorem State.Quiet.after_exec {s t : State} {i : Instr} (q : s.Quiet) (hx : exec i s = .next t) : t.Quiet := by
  obtain ⟨-, -, hrst, hreq, hcmd, -⟩ := onlyTheNamedInstructionsWriteAnElement i s t hx
  exact ⟨hreq.trans q.no_request, hcmd.trans q.no_command, hrst.trans q.no_reset⟩

/-! ## The events of the shared operations -/

section
variable {s u : State} {es : List Event}

theorem Follows.setSeq (h : Follows s u es) (c : BitVec 5) : Follows s (u.setSeq c) es := h

theorem Follows.setStepPeriod (h : Follows s u es) (w : Word) : Follows s (u.setStepPeriod w) es := h

theorem Follows.answerRequest (h : Follows s u es) (a : Option Bool) : Follows s (u.answerRequest a) es := h

theorem Follows.answerCommand (h : Follows s u es) (a : Option Response) : Follows s (u.answerCommand a) es := h

end

theorem follows_faultCheck (s : State) : Follows s (faultCheck s).2 (faultCheckEvents s) := by
  rw [faultCheck_snd]; exact ⟨rfl, rfl⟩

theorem follows_safeOff (s : State) : Follows s (safeOff s) safeOffEvents := by
  rw [safeOff_eq]; exact ⟨rfl, rfl⟩

theorem follows_lowSideOff (s : State) :
    Follows s (lowSideOff s) (lowSideOffEvents s.motor.currentLowSide) := by
  rw [lowSideOff_eq]; exact ⟨rfl, rfl⟩

theorem follows_pollButton (b : Button) (s : State) : Follows s (pollButton b s).2 (pollEvents b s) := by
  rw [pollButton_snd]; exact ⟨by simp, by simp [pollEvents, DriverImage.apply]⟩

/-- The events of the fault sample, and on a fault those of the safe state. -/
theorem follows_enterFaultHalted (s : State) :
    Follows s (enterFaultHalted (faultCheck s).2) (faultCheckEvents s ++ safeOffEvents) :=
  (follows_faultCheck s).trans ((follows_safeOff _).setSeq _)

/-- The events of one COMMUTATE of step `j`: the fault sample, then those of the safe state or of the step. -/
def commutateRequestEvents (j : StepIndex) (d : Word) (s : State) : List Event :=
  faultCheckEvents s ++
    if (faultCheck s).1 then safeOffEvents
    else commutateEvents (commutationTable j).1 (commutationTable j).2 d s.config.deadTimeUs s.motor.currentLowSide

theorem follows_commutate (j : StepIndex) (d : Word) (s : State) :
    Follows s (commutate j d s).2 (commutateRequestEvents j d s) := by
  unfold commutateRequestEvents
  cases hf : (faultCheck s).1 with
  | true => rw [commutate_of_fault s j d hf]; exact follows_enterFaultHalted s
  | false => rw [commutate_of_clear s j d hf, faultCheckEvents_of_clear s hf]; exact ⟨rfl, rfl⟩

/-! ## The events of an instruction -/

/-- The events `i` issues in `s`, in order; for a selector that names no phase or step, where `i` is refused, none. -/
def instrEvents (i : Instr) (s : State) : List Event :=
  match i with
  | .cs1 | .wfault => faultCheckEvents s ++ if (faultCheck s).1 then safeOffEvents else []
  | .cs2 => lowSideOffEvents s.motor.currentLowSide
  | .cs3 | .cs5 | .cs7 => [.dlyUs s.config.deadTimeUs]
  | .cs4 => [.setHs (otherPhases s.targetHigh).1 false, .setHs (otherPhases s.targetHigh).2 false]
  | .cs6 => [.setHs s.targetHigh true]
  | .cs8 => [.setLs s.targetLow true s.motor.pwmLevel]
  | .winit | .wchk | .adv => []
  | .winc => pollEvents .inc s
  | .wdec => pollEvents .dec s
  | .wsleep => [.dlyMs s.config.pollMs]
  | .henter | .hexit | .safeoff => safeOffEvents
  | .hpoll | .fchk => faultCheckEvents s
  | .hsleep => [.dlyMs s.config.faultPollMs]
  | .commutate k d =>
    match stepOfCode k with
    | some j => commutateRequestEvents j d s
    | none => []
  | .btnpoll b => pollEvents b s
  | .seths sel on =>
    match phaseOfCode sel with
    | some p => [.setHs p on]
    | none => []
  | .setls sel en d =>
    match phaseOfCode sel with
    | some p => [.setLs p en d]
    | none => []
  | .rdpin pin => [.rdPin pin (s.env.pinLevel pin)]
  | .rdtime => [.rdTime s.env.clockNow]
  | .dlyms n => [.dlyMs n]
  | .dlyus n => [.dlyUs n]

/-- Everything an instruction does to the history and to the image. -/
theorem exec_follows {i : Instr} {s t : State} (hx : exec i s = .next t) : Follows s t (instrEvents i s) := by
  cases i with
  | cs1 =>
    rcases execCs1_cases hx with ⟨hf, rfl⟩ | ⟨hf, rfl⟩
    · simpa [instrEvents, hf] using follows_enterFaultHalted s
    · simpa [instrEvents, hf] using (follows_faultCheck s).setSeq SeqCode.CS2
  | wfault =>
    rcases execWfault_cases hx with ⟨hf, rfl⟩ | ⟨hf, rfl⟩
    · simpa [instrEvents, hf] using follows_enterFaultHalted s
    · simpa [instrEvents, hf] using (follows_faultCheck s).setSeq SeqCode.WINC
  | cs2 => cases hx; exact (follows_lowSideOff s).setSeq _
  | cs4 => cases hx; rw [otherHighSidesOff_eq]; exact ⟨rfl, rfl⟩
  | cs3 | cs5 | cs7 | cs6 | cs8 | wsleep | hsleep => cases hx; exact ⟨rfl, rfl⟩
  | winit | wchk | adv => cases hx; exact Follows.refl s
  | winc | wdec =>
    cases hx
    split
    · exact ((follows_pollButton _ s).setStepPeriod _).setSeq _
    · exact (follows_pollButton _ s).setSeq _
  | henter | hexit => cases hx; exact (follows_safeOff s).setSeq _
  | hpoll => cases hx; exact (follows_faultCheck s).setSeq _
  | fchk => cases hx; exact (follows_faultCheck s).answerRequest _
  | safeoff => cases hx; exact (follows_safeOff s).answerRequest _
  | commutate k d =>
    obtain ⟨j, hj, rfl⟩ := execCommutate_next_iff.mp hx
    simp only [instrEvents, hj]
    exact (follows_commutate j d s).answerRequest _
  | btnpoll b => cases hx; exact (follows_pollButton b s).answerRequest _
  | seths sel on =>
    obtain ⟨p, hp, rfl⟩ := execSeths_next_iff.mp hx
    simp only [instrEvents, hp]
    exact (Follows.record s _).answerCommand none
  | setls sel en d =>
    obtain ⟨p, hp, -, rfl⟩ := (execSetls_next_iff s).mp hx
    simp only [instrEvents, hp]
    exact (Follows.record s _).answerCommand none
  | rdpin | rdtime | dlyms | dlyus => cases hx; exact ⟨rfl, rfl⟩

/-- Taking a word from the bus or the port is no event. -/
theorem State.follows_fetch (s : State) : Follows s s.fetch.2 [] := by
  rcases s.fetch_cases with h | ⟨w, -, h⟩ | ⟨w, -, -, h⟩
  all_goals rw [h]; exact Follows.refl s

/-- Settles O44: a step other than a reset is a fetch, which is no event, and an instruction with its events. -/
theorem historyGrowsAndTheImageIsItsFold : Obligations.HistoryGrowsAndTheImageIsItsFold := by
  unfold Obligations.HistoryGrowsAndTheImageIsItsFold
  intro s t hrst hstep
  rcases step_next_cases s hstep with ⟨hreset, -⟩ | ⟨-, i, -, hx⟩
  · rw [hrst] at hreset; cases hreset
  · exact ⟨_, s.follows_fetch.trans (exec_follows hx)⟩

/-- A command that runs issues one event, whose word is the command's (30_encoding.md R88). -/
theorem instrEvents_of_port {i : Instr} {w : BitVec 38} {s t : State} (hw : encode i = .port w)
    (hx : exec i s = .next t) : ∃ e, instrEvents i s = [e] ∧ e.word = w := by
  cases i with
  | seths sel on =>
    obtain ⟨p, hp, -⟩ := execSeths_next_iff.mp hx
    obtain rfl := phaseOfCode_eq_some.mp hp
    exact ⟨.setHs p on, by simp [instrEvents], CodeWord.port.inj hw⟩
  | setls sel en d =>
    obtain ⟨p, hp, -, -⟩ := (execSetls_next_iff s).mp hx
    obtain rfl := phaseOfCode_eq_some.mp hp
    exact ⟨.setLs p en d, by simp [instrEvents], CodeWord.port.inj hw⟩
  | rdpin | rdtime | dlyms | dlyus => exact ⟨_, rfl, CodeWord.port.inj hw⟩
  | _ => cases hw

/-- Settles O8: the history grows by the instruction's events, and a command has the one of its word. -/
theorem portCommandIsOneEventOfItsWord : Obligations.PortCommandIsOneEventOfItsWord := by
  unfold Obligations.PortCommandIsOneEventOfItsWord
  intro i w s t hw hx
  obtain ⟨htrace, -⟩ := exec_follows hx
  obtain ⟨e, he, hword⟩ := instrEvents_of_port hw hx
  exact ⟨e, he ▸ htrace, hword⟩

/-! ## Duties and the wait counter -/

theorem duty_of_mem_safeOffEvents {p : Phase} {en : Bool} {d : Word} (h : Event.setLs p en d ∈ safeOffEvents) :
    d = 0#32 := by
  have hall : ∀ e ∈ safeOffEvents, ∀ q on w, e = Event.setLs q on w → w = 0#32 := by simp [safeOffEvents]
  exact hall _ h _ _ _ rfl

theorem duty_of_mem_lowSideOffEvents {low : Option Phase} {p : Phase} {en : Bool} {d : Word}
    (h : Event.setLs p en d ∈ lowSideOffEvents low) : d = 0#32 := by
  cases low with
  | none => cases h
  | some l => cases List.mem_singleton.mp h; rfl

/-- A low-side command of a micro-operation carries duty 0 or `pwmLevel` (44_driver_port.md R207). -/
theorem duty_of_mem_instrEvents {i : Instr} {c : BitVec 5} {s : State} {p : Phase} {en : Bool} {d : Word}
    (hc : encode i = .seq c) (hmem : Event.setLs p en d ∈ instrEvents i s) : d = 0#32 ∨ d = s.motor.pwmLevel := by
  have hsample : Event.setLs p en d ∉ faultCheckEvents s := by simp [faultCheckEvents]
  cases i with
  | cs1 | wfault =>
    rcases List.mem_append.mp hmem with h | h
    · exact absurd h hsample
    · split at h
      · exact .inl (duty_of_mem_safeOffEvents h)
      · cases h
  | cs2 => exact .inl (duty_of_mem_lowSideOffEvents hmem)
  | cs8 => cases List.mem_singleton.mp hmem; exact .inr rfl
  | henter | hexit => exact .inl (duty_of_mem_safeOffEvents hmem)
  | cs3 | cs4 | cs5 | cs6 | cs7 | winit | wchk | winc | wdec | wsleep | adv | hpoll | hsleep =>
    simp [instrEvents, pollEvents, faultCheckEvents] at hmem
  | fchk | safeoff | commutate | btnpoll | seths | setls | rdpin | rdtime | dlyms | dlyus => cases hc

/-- Inside a poll tick there is room for one more sleep (10_state.md R36, 00_scope.md R7). -/
theorem State.RangeInv.elapsed_add_poll {s : State} (h : s.RangeInv) (hs : s.seq ∈ tickCodes) :
    (s.elapsed + s.config.pollMs).toNat = s.elapsed.toNat + s.config.pollMs.toNat := by
  have helapsed := h.elapsed_in_tick hs
  have hroom := h.config_ok.max_add_poll
  rw [BitVec.toNat_add, Nat.mod_eq_of_lt (by omega)]

/-- Settles O54: WSLEEP has room for its sleep, and a micro-operation's duties are 0 or `pwmLevel`. -/
theorem counterDoesNotOverflowAndDutyIsInRange : Obligations.CounterDoesNotOverflowAndDutyIsInRange := by
  unfold Obligations.CounterDoesNotOverflowAndDutyIsInRange
  intro s t h hstep
  refine ⟨fun hseq => ?counter, fun es p en d hes hmem => ?duty⟩
  case counter =>
    have hx : step s = exec .wsleep s := h.quiet.step_eq (by rw [hseq]; rfl)
    rw [hx] at hstep
    cases hstep
    exact h.elapsed_add_poll (by rw [hseq]; decide)
  case duty =>
    obtain ⟨i, hd, hx⟩ := h.quiet.step_inv hstep
    obtain ⟨htrace, -⟩ := exec_follows hx
    obtain rfl : es = instrEvents i s := List.append_cancel_left (hes.symm.trans htrace)
    rcases duty_of_mem_instrEvents (decodeSeq_encode hd) hmem with rfl | rfl
    · exact Nat.zero_le _
    · exact h.duty_in_range

/-! ## One poll of a button record (42_debounce.md R150) -/

/-- The time since which the sampled level differs, for a poll at `now` that finds it different: the start of the
transition that is on, else `now` (42_debounce.md R150). -/
def ButtonInput.differsSince (r : ButtonInput) (now : Word) : Word := if r.trans then r.lastChangeTime else now

section
variable (c : Config) (now : Word) (r : ButtonInput)

/-! One poll, by the sampled level: a level that differs from the stable one, a held button, a released button. -/

theorem debounce_of_differs {raw : Bool} (h : raw ≠ r.stableState) :
    debounce c raw now r =
      if hasPersisted now (r.differsSince now) c.debounceMs then
        if raw then ({ r with stableState := raw, lastChangeTime := now, trans := false }, false)
        else ({ stableState := raw, lastChangeTime := now, trans := false, lastEventTime := now }, true)
      else ({ r with trans := true, lastChangeTime := r.differsSince now }, false) := by
  simp only [debounce, bne_iff_ne.mpr h, if_true]; rfl

theorem debounce_of_held (h : r.stableState = false) :
    debounce c false now r =
      if hasPersisted now r.lastEventTime c.repeatMs then ({ r with trans := false, lastEventTime := now }, true)
      else ({ r with trans := false }, false) := by
  simp [debounce, h]

theorem debounce_of_released (h : r.stableState = true) :
    debounce c true now r = ({ r with trans := false }, false) := by
  simp [debounce, h]

end

/-! ## Timestamps that no poll has written -/

/-- `q` is `r` as far as a poll can read it: `lastChangeTime` only in transition, `lastEventTime` only while pressed
(10_state.md R32, R33). -/
structure ButtonInput.ReadsAs (r q : ButtonInput) : Prop where
  stable : r.stableState = q.stableState
  trans : r.trans = q.trans
  change : r.trans = true → r.lastChangeTime = q.lastChangeTime
  event : r.stableState = false → r.lastEventTime = q.lastEventTime

theorem ButtonInput.ReadsAs.differsSince_eq {r q : ButtonInput} (h : r.ReadsAs q) (now : Word) :
    r.differsSince now = q.differsSince now := by
  unfold ButtonInput.differsSince
  rw [← h.trans]
  exact ite_congr rfl h.change fun _ => rfl

/-- A poll reads no more of a record than that, and leaves the same to the next one. -/
theorem debounce_readsAs (c : Config) (raw : Bool) (now : Word) {r q : ButtonInput} (h : r.ReadsAs q) :
    (debounce c raw now r).2 = (debounce c raw now q).2 ∧
      (debounce c raw now r).1.ReadsAs (debounce c raw now q).1 := by
  by_cases hraw : raw = r.stableState
  · cases hs : r.stableState with
    | true =>
      rw [hraw, hs, debounce_of_released c now r hs, debounce_of_released c now q (h.stable ▸ hs)]
      exact ⟨rfl, h.stable, rfl, nofun, h.event⟩
    | false =>
      rw [hraw, hs, debounce_of_held c now r hs, debounce_of_held c now q (h.stable ▸ hs), ← h.event hs]
      split
      · exact ⟨rfl, h.stable, rfl, nofun, fun _ => rfl⟩
      · exact ⟨rfl, h.stable, rfl, nofun, fun _ => rfl⟩
  · rw [debounce_of_differs c now r hraw, debounce_of_differs c now q (h.stable ▸ hraw), ← h.differsSince_eq now]
    split
    · cases raw with
      | true => exact ⟨rfl, rfl, rfl, nofun, nofun⟩
      | false => exact ⟨rfl, rfl, rfl, nofun, fun _ => rfl⟩
    · exact ⟨rfl, h.stable, rfl, fun _ => rfl, h.event⟩

/-- A poll of `b` gives the same answer, and the same readable record, for any record that reads as the one of `b`. -/
theorem pollResult_readsAs (b : Button) (s : State) {q : ButtonInput} (h : (s.button b).ReadsAs q) :
    (pollResult b s).2 = (pollResult b (s.setButton b q)).2 ∧
      (pollResult b s).1.ReadsAs (pollResult b (s.setButton b q)).1 := by
  simpa [pollResult] using debounce_readsAs s.config (s.env.pinLevel b.pin) s.env.afterPin.clockNow h

/-- Settles O25: the record with other unread timestamps reads as the old one. -/
theorem unwrittenTimestampsAreNeverRead : Obligations.UnwrittenTimestampsAreNeverRead := by
  unfold Obligations.UnwrittenTimestampsAreNeverRead
  intro b s lc le hlc hle
  have hreads : (s.button b).ReadsAs { s.button b with lastChangeTime := lc, lastEventTime := le } :=
    ⟨rfl, rfl, fun h => (hlc h).symm, fun h => (hle h).symm⟩
  obtain ⟨hanswer, hrecord⟩ := pollResult_readsAs b s hreads
  refine ⟨afterPoll b s, afterPoll b (s.setButton b _), rfl, rfl, congrArg some hanswer, ?_⟩
  rw [afterPoll_button, afterPoll_button]
  exact ⟨hrecord.stable, hrecord.trans, hrecord.change, hrecord.event⟩

/-! ## FaultHalted -/

/-- `halted` stays when `seq` goes from a code to one with the same bit 4 (30_encoding.md R96). -/
theorem halted_setSeq_of_code {s u : State} {c d : BitVec 5} (hcode : CodeWord.seq c = .seq s.seq)
    (hbit : d.getLsbD 4 = c.getLsbD 4) : (u.setSeq d).halted = s.halted := by
  cases hcode
  exact hbit

/-- How a micro-operation can move `halted`: not at all, by entering FaultHalted on a faulty sample, or by leaving it. -/
theorem exec_halted_cases {i : Instr} {s t : State} (hcode : encode i = .seq s.seq) (hx : exec i s = .next t) :
    t.halted = s.halted ∨
      ((s.seq = SeqCode.CS1 ∨ s.seq = SeqCode.WFAULT) ∧ t.seq = SeqCode.HENTER ∧ (faultCheck s).1 = true) ∨
      (s.seq = SeqCode.HEXIT ∧ t.seq = SeqCode.CS1) := by
  cases i with
  | cs1 =>
    rcases execCs1_cases hx with ⟨hf, rfl⟩ | ⟨-, rfl⟩
    · exact .inr (.inl ⟨.inl (CodeWord.seq.inj hcode).symm, rfl, hf⟩)
    · exact .inl (halted_setSeq_of_code hcode rfl)
  | wfault =>
    rcases execWfault_cases hx with ⟨hf, rfl⟩ | ⟨-, rfl⟩
    · exact .inr (.inl ⟨.inr (CodeWord.seq.inj hcode).symm, rfl, hf⟩)
    · exact .inl (halted_setSeq_of_code hcode rfl)
  | hexit => cases hx; exact .inr (.inr ⟨(CodeWord.seq.inj hcode).symm, rfl⟩)
  | wchk | hpoll =>
    cases hx
    split
    · exact .inl (halted_setSeq_of_code hcode rfl)
    · exact .inl (halted_setSeq_of_code hcode rfl)
  | cs2 | cs3 | cs4 | cs5 | cs6 | cs7 | cs8 | winit | winc | wdec | wsleep | adv | henter | hsleep =>
    cases hx
    exact .inl (halted_setSeq_of_code hcode rfl)
  | fchk | safeoff | commutate | btnpoll | seths | setls | rdpin | rdtime | dlyms | dlyus => cases hcode

/-- Settles O45: a step that moves `halted` is an entry or a return, and the code it started from says which. -/
theorem haltedChangesOnlyAtEntryAndReturn : Obligations.HaltedChangesOnlyAtEntryAndReturn := by
  unfold Obligations.HaltedChangesOnlyAtEntryAndReturn
  intro s t q hstep
  obtain ⟨i, hd, hx⟩ := q.step_inv hstep
  rcases exec_halted_cases (decodeSeq_encode hd) hx with hsame | ⟨hfrom, hto, hf⟩ | ⟨hfrom, hto⟩
  · exact ⟨fun h0 h1 => by simp [hsame, h0] at h1, fun h1 h0 => by simp [hsame, h1] at h0⟩
  · refine ⟨fun _ _ => ⟨hfrom, hto, faultCondition_eq_true.mp hf⟩, fun _ h0 => ?_⟩
    simp [State.halted, hto, SeqCode.HENTER] at h0
  · refine ⟨fun _ h1 => ?_, fun _ _ => ⟨hfrom, hto⟩⟩
    simp [State.halted, hto, SeqCode.CS1] at h1

/-! ## The driver invariant: what every place asks

A switch that is on is recorded in its field, and the fields differ; that alone rules out a shoot-through. -/

/-- Both clauses of 41_commutation.md R132 on recording, and R28 over the fields. -/
structure State.Recorded (s : State) : Prop where
  distinct : s.motor.FieldsDistinct
  low_recorded : ∀ p, s.driver.lsEn.get p = true → s.motor.currentLowSide = some p
  high_recorded : ∀ p, s.driver.hsOn.get p = true → s.motor.currentHighSide = some p

theorem State.Recorded.consistent {s : State} (h : s.Recorded) : s.Consistent where
  safe :=
    { one_high := fun p q hp hq => Option.some.inj ((h.high_recorded p hp).symm.trans (h.high_recorded q hq))
      one_low := fun p q hp hq => Option.some.inj ((h.low_recorded p hp).symm.trans (h.low_recorded q hq))
      disjoint := fun p ⟨hp, hq⟩ => h.distinct p ⟨h.high_recorded p hp, h.low_recorded p hq⟩ }
  low_recorded := h.low_recorded
  high_recorded := h.high_recorded

theorem State.Recorded.setSeq {s : State} (h : s.Recorded) (c : BitVec 5) : (s.setSeq c).Recorded :=
  ⟨h.distinct, h.low_recorded, h.high_recorded⟩

theorem fieldsDistinct_of_low_none {m : MotorState} (h : m.currentLowSide = none) : m.FieldsDistinct :=
  fun p ⟨_, hp⟩ => by rw [h] at hp; cases hp

/-! ## The driver invariant: what one place asks -/

/-- The places after CS2, before CS8 has run. -/
def lowOffCodes : List (BitVec 5) :=
  [SeqCode.CS3, SeqCode.CS4, SeqCode.CS5, SeqCode.CS6, SeqCode.CS7, SeqCode.CS8]

/-- The places after CS4, before CS8 has run. -/
def onlyTargetCodes : List (BitVec 5) := [SeqCode.CS5, SeqCode.CS6, SeqCode.CS7, SeqCode.CS8]

/-- The places after CS6, before CS8 has run. -/
def targetRecordedCodes : List (BitVec 5) := [SeqCode.CS7, SeqCode.CS8]

/-- Both fields `None` and every switch off (10_state.md R42). -/
structure State.AllOff (s : State) : Prop where
  high : s.motor.currentHighSide = none
  low : s.motor.currentLowSide = none
  image : s.driver = DriverImage.allOff

/-- What `State.DriveInv` asks of a state beyond quiet and recording when its `seq` holds `c`. -/
structure State.MeetsPlace (s : State) (c : BitVec 5) : Prop where
  low_off : c ∈ lowOffCodes → s.motor.currentLowSide = none
  only_target : c ∈ onlyTargetCodes → ∀ p, s.driver.hsOn.get p = true → p = s.targetHigh
  target_recorded : c ∈ targetRecordedCodes → s.motor.currentHighSide = some s.targetHigh
  all_off : c.getLsbD 4 = true → s.AllOff

theorem State.DriveInv.recorded {s : State} (h : s.DriveInv) : s.Recorded :=
  ⟨h.distinct, h.consistent.low_recorded, h.consistent.high_recorded⟩

theorem State.DriveInv.meetsPlace {s : State} (h : s.DriveInv) : s.MeetsPlace s.seq where
  low_off := h.low_off_after_cs2
  only_target := h.only_target_after_cs4
  target_recorded := h.target_recorded_after_cs6
  all_off := fun hc => have ⟨hhigh, hlow, himage⟩ := h.halted_all_off hc; ⟨hhigh, hlow, himage⟩

theorem State.DriveInv.of_setSeq {u : State} {c : BitVec 5} (q : (u.setSeq c).Quiet) (hr : u.Recorded)
    (hp : u.MeetsPlace c) : (u.setSeq c).DriveInv where
  quiet := q
  consistent := (hr.setSeq c).consistent
  distinct := hr.distinct
  low_off_after_cs2 := hp.low_off
  only_target_after_cs4 := hp.only_target
  target_recorded_after_cs6 := hp.target_recorded
  halted_all_off := fun hc => ⟨(hp.all_off hc).high, (hp.all_off hc).low, (hp.all_off hc).image⟩

/-- Whatever the place `c` asks, the place `d` asks too. -/
abbrev AsksNoMore (c d : BitVec 5) : Prop :=
  (c ∈ lowOffCodes → d ∈ lowOffCodes) ∧ (c ∈ onlyTargetCodes → d ∈ onlyTargetCodes) ∧
    (c ∈ targetRecordedCodes → d ∈ targetRecordedCodes) ∧ (c.getLsbD 4 = true → d.getLsbD 4 = true)

theorem State.MeetsPlace.mono {s : State} {c d : BitVec 5} (h : s.MeetsPlace d) (hcd : AsksNoMore c d) :
    s.MeetsPlace c := by
  obtain ⟨hlow, htarget, hrec, hoff⟩ := hcd
  exact ⟨h.low_off ∘ hlow, h.only_target ∘ htarget, h.target_recorded ∘ hrec, h.all_off ∘ hoff⟩

/-- Running, outside CS3 to CS8, nothing is asked: CS1 is such a place. -/
theorem State.meetsPlace_of_free (s : State) {c : BitVec 5} (hc : AsksNoMore c SeqCode.CS1) : s.MeetsPlace c := by
  have hcs1 : s.MeetsPlace SeqCode.CS1 := by
    constructor
    all_goals exact fun h => absurd h (by decide)
  exact hcs1.mono hc

/-! ## All switches off -/

@[simp] theorem allOff_hsOn_get (p : Phase) : DriverImage.allOff.hsOn.get p = false := by cases p <;> rfl

@[simp] theorem allOff_lsEn_get (p : Phase) : DriverImage.allOff.lsEn.get p = false := by cases p <;> rfl

theorem safeOff_allOff (s : State) : (safeOff s).AllOff := by
  rw [safeOff_eq]
  exact ⟨rfl, rfl, rfl⟩

theorem State.AllOff.recorded {s : State} (h : s.AllOff) : s.Recorded where
  distinct := fieldsDistinct_of_low_none h.low
  low_recorded := by simp [h.image]
  high_recorded := by simp [h.image]

theorem State.AllOff.meetsPlace {s : State} (h : s.AllOff) {c : BitVec 5} (hc : c ∉ targetRecordedCodes) :
    s.MeetsPlace c where
  low_off := fun _ => h.low
  only_target := by simp [h.image]
  target_recorded := fun hin => absurd hin hc
  all_off := fun _ => h

/-- After `SAFEOFF` the invariant holds, whatever held before it. -/
theorem driveInv_of_safeOff {s : State} {c : BitVec 5} (q : ((safeOff s).setSeq c).Quiet)
    (hc : c ∉ targetRecordedCodes) : ((safeOff s).setSeq c).DriveInv :=
  .of_setSeq q (safeOff_allOff s).recorded ((safeOff_allOff s).meetsPlace hc)

/-! ## The electrical transitions (41_commutation.md R123, R125, R127, R129) -/

/-- A low side enabled after CS2's off command was enabled before it, and is not the recorded one. -/
theorem lsEn_of_lowSideOffEvents {d : DriverImage} {low : Option Phase} {p : Phase}
    (h : (d.applyAll (lowSideOffEvents low)).lsEn.get p = true) : d.lsEn.get p = true ∧ low ≠ some p := by
  cases low with
  | none => exact ⟨h, nofun⟩
  | some l =>
    change (d.lsEn.set l false).get p = true at h
    rw [PerPhase.get_set] at h
    split at h
    case isTrue => cases h
    case isFalse hne => exact ⟨h, fun heq => hne (Option.some.inj heq).symm⟩

theorem applyAll_lowSideOffEvents_hsOn (d : DriverImage) (low : Option Phase) :
    (d.applyAll (lowSideOffEvents low)).hsOn = d.hsOn := by
  cases low <;> rfl

/-- A high side on after CS4 was on before it, and is the target's. -/
theorem hsOn_of_otherHighSidesOff {s : State} {h p : Phase} (hp : (otherHighSidesOff h s).driver.hsOn.get p = true) :
    p = h ∧ s.driver.hsOn.get p = true := by
  rw [otherHighSidesOff_eq] at hp
  simp only [PerPhase.get_set] at hp
  split at hp
  case isTrue => cases hp
  case isFalse h2 =>
    split at hp
    case isTrue => cases hp
    case isFalse h1 => exact ⟨eq_of_not_others h p h1 h2, hp⟩

/-- After CS2 no low side is enabled: the one that was, if any, was the recorded one. -/
theorem lowSideOff_recorded {s : State} (h : s.Recorded) : (lowSideOff s).Recorded := by
  rw [lowSideOff_eq]
  constructor
  case distinct => exact fieldsDistinct_of_low_none rfl
  case low_recorded =>
    intro p hp
    obtain ⟨hen, hne⟩ := lsEn_of_lowSideOffEvents hp
    exact absurd (h.low_recorded p hen) hne
  case high_recorded =>
    intro p hp
    exact h.high_recorded p (by rwa [applyAll_lowSideOffEvents_hsOn] at hp)

theorem otherHighSidesOff_recorded {s : State} (h : s.Recorded) (p : Phase) : (otherHighSidesOff p s).Recorded where
  distinct := h.distinct
  low_recorded := h.low_recorded
  high_recorded := fun _ hq => h.high_recorded _ (hsOn_of_otherHighSidesOff hq).2

/-- A high side on after CS6 is the target's, when before it no other was on. -/
theorem hsOn_of_highSideOn {s : State} {h p : Phase} (honly : ∀ q, s.driver.hsOn.get q = true → q = h)
    (hp : (highSideOn h s).driver.hsOn.get p = true) : p = h := by
  rw [highSideOn_eq] at hp
  by_contra hne
  exact hne (honly p (by rwa [PerPhase.get_set_of_ne _ hne] at hp))

theorem highSideOn_recorded {s : State} (h : s.Recorded) {p : Phase} (hlow : s.motor.currentLowSide = none)
    (honly : ∀ q, s.driver.hsOn.get q = true → q = p) : (highSideOn p s).Recorded where
  distinct := fieldsDistinct_of_low_none hlow
  low_recorded := h.low_recorded
  high_recorded := fun _ hq => congrArg some (hsOn_of_highSideOn honly hq).symm

theorem lowSideOn_recorded {s : State} (h : s.Recorded) {l k : Phase} (duty : Word)
    (hlow : s.motor.currentLowSide = none) (hhigh : s.motor.currentHighSide = some k) (hne : k ≠ l) :
    (lowSideOn l duty s).Recorded := by
  rw [lowSideOn_eq]
  constructor
  case distinct =>
    rintro p ⟨hp, hl⟩
    exact hne (Option.some.inj (hhigh.symm.trans (hp.trans hl.symm)))
  case low_recorded =>
    intro p hp
    rw [PerPhase.get_set] at hp
    split at hp
    case isTrue heq => rw [heq]
    case isFalse => exact absurd (hlow.symm.trans (h.low_recorded p hp)) nofun
  case high_recorded => exact h.high_recorded

/-! ## Every step keeps the driver invariant -/

/-- What the driver invariant reads, `seq` and the lines of `State.Quiet` aside. -/
def State.driveView (s : State) : Option Phase × Option Phase × StepIndex × DriverImage :=
  (s.motor.currentHighSide, s.motor.currentLowSide, s.motor.stepIndex, s.driver)

section
variable (s : State)

@[simp] theorem driveView_setElapsed (w : Word) : (s.setElapsed w).driveView = s.driveView := rfl

@[simp] theorem driveView_setStepPeriod (w : Word) : (s.setStepPeriod w).driveView = s.driveView := rfl

@[simp] theorem driveView_delayMs (n : Word) : (delayMs n s).driveView = s.driveView := rfl

@[simp] theorem driveView_deadtime : (deadtime s).driveView = s.driveView := rfl

@[simp] theorem driveView_faultCheck : (faultCheck s).2.driveView = s.driveView := by rw [faultCheck_snd]; rfl

@[simp] theorem driveView_pollButton (b : Button) : (pollButton b s).2.driveView = s.driveView := by
  rw [pollButton_snd]; cases b <;> rfl

end

/-- An operation that leaves the fields, the step and the image alone, then a move to a place that asks no more. -/
theorem State.DriveInv.after_move {s u : State} {c d : BitVec 5} (h : s.DriveInv) (hcode : CodeWord.seq d = .seq s.seq)
    (hv : u.driveView = s.driveView) (q : (u.setSeq c).Quiet) (hcd : AsksNoMore c d) : (u.setSeq c).DriveInv := by
  have hr := h.recorded
  have hp := h.meetsPlace
  rw [← CodeWord.seq.inj hcode] at hp
  replace hp := hp.mono hcd
  simp only [State.driveView, Prod.mk.injEq] at hv
  obtain ⟨hhigh, hlow, hstep, himage⟩ := hv
  have htarget : u.targetHigh = s.targetHigh := by simp only [State.targetHigh, hstep]
  refine .of_setSeq q ⟨?_, ?_, ?_⟩ ⟨?_, ?_, ?_, ?_⟩
  · unfold MotorState.FieldsDistinct; rw [hhigh, hlow]; exact hr.distinct
  · rw [himage, hlow]; exact hr.low_recorded
  · rw [himage, hhigh]; exact hr.high_recorded
  · rw [hlow]; exact hp.low_off
  · rw [himage, htarget]; exact hp.only_target
  · rw [hhigh, htarget]; exact hp.target_recorded
  · intro hc
    have hoff := hp.all_off hc
    exact ⟨hhigh.trans hoff.high, hlow.trans hoff.low, himage.trans hoff.image⟩

/-- Every micro-operation keeps the invariant. -/
theorem State.DriveInv.after_exec {s t : State} {i : Instr} (h : s.DriveInv) (hcode : encode i = .seq s.seq)
    (hx : exec i s = .next t) : t.DriveInv := by
  have q := h.quiet.after_exec hx
  have hr := h.recorded
  have hp := h.meetsPlace
  cases i with
  | cs1 =>
    rcases execCs1_cases hx with ⟨-, rfl⟩ | ⟨-, rfl⟩
    · exact driveInv_of_safeOff q (by decide)
    · exact h.after_move hcode (by simp) q (by decide)
  | cs2 =>
    cases hx
    have hlow : (lowSideOff s).motor.currentLowSide = none := by rw [lowSideOff_eq]
    refine .of_setSeq q (lowSideOff_recorded hr) ⟨fun _ => hlow, ?_, ?_, ?_⟩
    all_goals exact fun hin => absurd hin (by decide)
  | cs4 =>
    cases hx
    rw [← CodeWord.seq.inj hcode] at hp
    have hlow := hp.low_off (by decide)
    refine .of_setSeq q (otherHighSidesOff_recorded hr _) ⟨fun _ => hlow, ?_, ?_, ?_⟩
    · exact fun _ p hon => (hsOn_of_otherHighSidesOff hon).1
    all_goals exact fun hin => absurd hin (by decide)
  | cs6 =>
    cases hx
    rw [← CodeWord.seq.inj hcode] at hp
    have hlow := hp.low_off (by decide)
    have honly := hp.only_target (by decide)
    refine .of_setSeq q (highSideOn_recorded hr hlow honly) ⟨fun _ => hlow, ?_, fun _ => rfl, ?_⟩
    · exact fun _ p hon => hsOn_of_highSideOn honly hon
    · exact fun hin => absurd hin (by decide)
  | cs8 =>
    cases hx
    rw [← CodeWord.seq.inj hcode] at hp
    have hlow := hp.low_off (by decide)
    have hhigh := hp.target_recorded (by decide)
    have hr' := lowSideOn_recorded hr s.motor.pwmLevel hlow hhigh (table_high_ne_low s.motor.stepIndex)
    exact .of_setSeq q hr' (State.meetsPlace_of_free _ (by decide))
  | adv =>
    cases hx
    have hr' : (s.setStepIndex (nextStepIndex s.motor.stepIndex)).Recorded :=
      ⟨hr.distinct, hr.low_recorded, hr.high_recorded⟩
    exact .of_setSeq q hr' (State.meetsPlace_of_free _ (by decide))
  | wfault =>
    rcases execWfault_cases hx with ⟨-, rfl⟩ | ⟨-, rfl⟩
    · exact driveInv_of_safeOff q (by decide)
    · exact h.after_move hcode (by simp) q (by decide)
  | wchk | hpoll => cases hx; exact h.after_move hcode (by simp) q (by split <;> decide)
  | winc | wdec => cases hx; exact h.after_move hcode (by split <;> simp) q (by decide)
  | cs3 | cs5 | cs7 | winit | wsleep | hsleep => cases hx; exact h.after_move hcode (by simp) q (by decide)
  | henter | hexit => cases hx; exact driveInv_of_safeOff q (by decide)
  | fchk | safeoff | commutate | btnpoll | seths | setls | rdpin | rdtime | dlyms | dlyus => cases hcode

/-- Settles O46: an undisturbed step runs the micro-operation in `seq`, and each of them keeps the invariant. -/
theorem stepKeepsTheDriveInvariant : Obligations.StepKeepsTheDriveInvariant := by
  unfold Obligations.StepKeepsTheDriveInvariant
  intro s t h hstep
  obtain ⟨i, hd, hx⟩ := h.quiet.step_inv hstep
  exact h.after_exec (decodeSeq_encode hd) hx

/-! ## Runs -/

/-- A micro-operation always has a next state, and leaves a legal code in `seq` (43_control_loop.md R184). -/
theorem exec_micro_progress {i : Instr} {c : BitVec 5} (hc : encode i = .seq c) (s : State) :
    ∃ t, exec i s = .next t ∧ t.SeqLegal := by
  cases i with
  | cs1 | wchk | wfault | hpoll =>
    refine ⟨_, rfl, ?_⟩
    split
    · exact ⟨_, rfl⟩
    · exact ⟨_, rfl⟩
  | cs2 | cs3 | cs4 | cs5 | cs6 | cs7 | cs8 | winit | winc | wdec | wsleep | adv | henter | hsleep | hexit =>
    exact ⟨_, rfl, _, rfl⟩
  | fchk | safeoff | commutate | btnpoll | seths | setls | rdpin | rdtime | dlyms | dlyus => cases hc

/-- An undisturbed state with a legal `seq` has a next state, whose `seq` is legal. -/
theorem State.Quiet.progress {s : State} (q : s.Quiet) (hl : s.SeqLegal) : ∃ t, step s = .next t ∧ t.SeqLegal := by
  obtain ⟨i, hd⟩ := hl
  rw [q.step_eq hd]
  exact exec_micro_progress (decodeSeq_encode hd) s

/-- The driver invariant and a legal `seq` last along every run. -/
theorem State.DriveInv.run {s : State} (h : s.DriveInv) (hl : s.SeqLegal) (n : Nat) :
    ∃ t, core.run n s = .next t ∧ t.DriveInv := by
  induction n generalizing s with
  | zero => exact ⟨s, rfl, h⟩
  | succ n ih =>
    obtain ⟨u, hstep, hlu⟩ := h.quiet.progress hl
    rw [core_run_succ n hstep]
    exact ih (stepKeepsTheDriveInvariant s u h hstep) hlu

theorem State.ctl_eq_faultHalted {s : State} : s.ctl = .faultHalted ↔ s.halted = true := by
  unfold State.ctl
  cases s.halted <;> simp

/-- Settles O48: the state a run ends in meets the driver invariant. -/
theorem everyRunIsFreeOfShootThrough : Obligations.EveryRunIsFreeOfShootThrough := by
  unfold Obligations.EveryRunIsFreeOfShootThrough
  intro s h hl n
  obtain ⟨t, hrun, ht⟩ := h.run hl n
  refine ⟨t, hrun, ht.consistent.safe, ht.distinct, fun hc => ?_⟩
  exact (ht.meetsPlace.all_off (State.ctl_eq_faultHalted.mp hc)).image

end Sys2Proof.Machine
end

section
/-! PROOFS. The commutation table (family 20_memory.md): the settled obligation O13. -/

namespace Sys2Proof.Machine

/-- Settles O13: the six entries are R62 evaluated, and a phase is never both high and low by `table_high_ne_low`. -/
theorem commutationTableHasTheSixPairs : Obligations.CommutationTableHasTheSixPairs := by
  unfold Obligations.CommutationTableHasTheSixPairs
  exact ⟨rfl, rfl, rfl, rfl, rfl, rfl, table_high_ne_low⟩

end Sys2Proof.Machine
end

section
/-! PROOFS. The encodings (family 30_encoding.md): the settled obligations O7, O38, O39, O40 and O41.

`fn` of a request and `op` of a command say which fields the word uses. The lemmas about the decoder run through the values
of `fn` and of `op` on fields, and carry over to whole words because a word is its fields. -/

namespace Sys2Proof.Machine

/-! ## Selectors and the fields that tell words apart -/

theorem stepOfCode_eq_none {arg : BitVec 3} : stepOfCode arg = none ↔ 6 ≤ arg.toNat := by
  simp [stepOfCode]

theorem legalStep_eq_false {arg : BitVec 3} : legalStep arg = false ↔ 6 ≤ arg.toNat := by
  simp [legalStep]

theorem legalPhase_eq_false {sel : BitVec 2} : legalPhase sel = false ↔ sel = 3#2 := by
  simp [legalPhase]

/-- The four requests (30_encoding.md R85). -/
theorem reqFn_cases (fn : BitVec 2) : fn = 0#2 ∨ fn = 1#2 ∨ fn = 2#2 ∨ fn = 3#2 := by
  revert fn; decide

/-- The two reserved values of `op`, and the six commands (30_encoding.md R88, R93). -/
theorem cmdOp_cases (op : BitVec 3) :
    6 ≤ op.toNat ∨ op = 0#3 ∨ op = 1#3 ∨ op = 2#3 ∨ op = 3#3 ∨ op = 4#3 ∨ op = 5#3 := by
  revert op; decide

/-- The part of `arg` a BTNPOLL leaves unused, as bits of the word (30_encoding.md R86). -/
theorem reqArg_high (w : BitVec 37) : (reqArg w).extractLsb' 1 2 = w.extractLsb' 33 2 := by
  ext i hi
  simp [reqArg, ← Nat.add_assoc, show 1 + i < 3 by omega]

/-! ## Reserved selectors -/

/-- Settles O7: a selector that names nothing leaves each of the three forms only its refusal. -/
theorem reservedSelectorsAreRefused : Obligations.ReservedSelectorsAreRefused := by
  unfold Obligations.ReservedSelectorsAreRefused
  intro s on en duty step hstep
  have hnone := stepOfCode_eq_none.mpr hstep
  exact ⟨rfl, rfl, by simp [exec, execCommutate, hnone]⟩

/-! ## Words of the spec -/

/-- Settles O38: the decoder evaluated on each word. -/
theorem wordsOfTheSpecDecode : Obligations.WordsOfTheSpecDecode := by
  unfold Obligations.WordsOfTheSpecDecode
  exact ⟨rfl, rfl, rfl, rfl, rfl, rfl, rfl, rfl, rfl, rfl, rfl, rfl, rfl⟩

/-! ## From an instruction to its word and back -/

theorem decode_reqWord (fn : BitVec 2) (arg : BitVec 3) (duty : Word) :
    decode (.request (reqWord fn arg duty)) = decodeReqFields (reqWord fn arg duty) fn arg duty := by
  simp [decode, decodeReq]

theorem decode_cmdWord (op : BitVec 3) (sel : BitVec 2) (flag : BitVec 1) (val : Word) :
    decode (.port (cmdWord op sel flag val)) = decodeCmdFields (cmdWord op sel flag val) op sel flag val := by
  simp [decode, decodeCmd]

/-- Settles O39: the decoder reads from the word the fields the encoder put there, and each operand from its field. -/
theorem decodeOfEncodeIsTheInstruction : Obligations.DecodeOfEncodeIsTheInstruction := by
  unfold Obligations.DecodeOfEncodeIsTheInstruction
  intro i hwf
  cases i with
  | cs1 | cs2 | cs3 | cs4 | cs5 | cs6 | cs7 | cs8 | winit | wchk | wfault | winc | wdec | wsleep | adv | henter | hpoll
  | hsleep | hexit => rfl
  | fchk | safeoff => simp [encode, decode_reqWord, decodeReqFields]
  | commutate k d =>
    have hk : legalStep k = true := hwf
    simp [encode, decode_reqWord, decodeReqFields, hk]
  | btnpoll b => simp [encode, decode_reqWord, decodeReqFields, btnArg_high, btnArg_low]
  | seths sel on =>
    have hsel : legalPhase sel = true := hwf
    simp [encode, decode_cmdWord, decodeCmdFields, hsel]
  | setls sel en d =>
    have hsel : legalPhase sel = true := hwf
    simp [encode, decode_cmdWord, decodeCmdFields, hsel]
  | rdpin | rdtime | dlyms | dlyus => simp [encode, decode_cmdWord, decodeCmdFields]

/-! ## From a word to its instruction and back -/

theorem decodeSeq_wellFormed {code : BitVec 5} {i : Instr} (h : decodeSeq code = .ok i) : i.wellFormed = true := by
  unfold decodeSeq at h
  split at h <;> cases h <;> rfl

theorem decodeCmdFields_of_reserved_op {w : BitVec 38} {op : BitVec 3} (hop : 6 ≤ op.toNat) (sel : BitVec 2)
    (flag : BitVec 1) (val : Word) : decodeCmdFields w op sel flag val = .error (.reservedCommand w) := by
  unfold decodeCmdFields
  split
  case h_7 => rfl
  all_goals omega

theorem ite_ok_error_eq_ok {c : Prop} [Decidable c] {i j : Instr} {e : DecodeError} :
    (if c then Except.ok i else .error e) = .ok j ↔ c ∧ i = j := by
  split <;> simp [*]

/-- A request that decodes has each unused field 0 and a legal selector (30_encoding.md R86, R92). -/
theorem decodeReqFields_eq_ok {w : BitVec 37} {fn : BitVec 2} {arg : BitVec 3} {duty : Word} {i : Instr}
    (h : decodeReqFields w fn arg duty = .ok i) : i.wellFormed = true ∧ encode i = .request (reqWord fn arg duty) := by
  obtain rfl | rfl | rfl | rfl := reqFn_cases fn
  · obtain ⟨⟨rfl, rfl⟩, rfl⟩ := ite_ok_error_eq_ok.mp h   -- FCHK
    exact ⟨rfl, rfl⟩
  · obtain ⟨⟨rfl, rfl⟩, rfl⟩ := ite_ok_error_eq_ok.mp h   -- SAFEOFF
    exact ⟨rfl, rfl⟩
  · obtain ⟨hstep, rfl⟩ := ite_ok_error_eq_ok.mp h        -- COMMUTATE
    exact ⟨(stepOfCode_isSome arg).symm.trans hstep, rfl⟩
  · obtain ⟨⟨hhigh, rfl⟩, rfl⟩ := ite_ok_error_eq_ok.mp h -- BTNPOLL
    exact ⟨rfl, by simp only [encode, code_buttonOfCode, btnArg_of_high hhigh]⟩

/-- A command that decodes has each unused field 0 and a legal selector (30_encoding.md R88, R89, R93). -/
theorem decodeCmdFields_eq_ok {w : BitVec 38} {op : BitVec 3} {sel : BitVec 2} {flag : BitVec 1} {val : Word} {i : Instr}
    (h : decodeCmdFields w op sel flag val = .ok i) :
    i.wellFormed = true ∧ encode i = .port (cmdWord op sel flag val) := by
  obtain hop | rfl | rfl | rfl | rfl | rfl | rfl := cmdOp_cases op
  · rw [decodeCmdFields_of_reserved_op hop] at h
    cases h
  · obtain ⟨⟨hphase, rfl⟩, rfl⟩ := ite_ok_error_eq_ok.mp h      -- SETHS
    exact ⟨(phaseOfCode_isSome sel).symm.trans hphase, by simp only [encode, boolCode_of_beq]⟩
  · obtain ⟨hphase, rfl⟩ := ite_ok_error_eq_ok.mp h             -- SETLS
    exact ⟨(phaseOfCode_isSome sel).symm.trans hphase, by simp only [encode, boolCode_of_beq]⟩
  · obtain ⟨⟨rfl, rfl⟩, rfl⟩ := ite_ok_error_eq_ok.mp h         -- RDPIN
    exact ⟨rfl, by simp only [encode, code_pinOfCode]⟩
  · obtain ⟨⟨rfl, rfl, rfl⟩, rfl⟩ := ite_ok_error_eq_ok.mp h    -- RDTIME
    exact ⟨rfl, rfl⟩
  · obtain ⟨⟨rfl, rfl⟩, rfl⟩ := ite_ok_error_eq_ok.mp h         -- DLYMS
    exact ⟨rfl, rfl⟩
  · obtain ⟨⟨rfl, rfl⟩, rfl⟩ := ite_ok_error_eq_ok.mp h         -- DLYUS
    exact ⟨rfl, rfl⟩

/-- Settles O40: the instruction's word has the fields the decoder read, and a word is its fields. -/
theorem decodedWordsAreTheEncodings : Obligations.DecodedWordsAreTheEncodings := by
  unfold Obligations.DecodedWordsAreTheEncodings
  intro c i h
  cases c with
  | seq code => exact ⟨decodeSeq_wellFormed h, decodeSeq_encode h⟩
  | request w => exact reqWord_fields w ▸ decodeReqFields_eq_ok h
  | port w => exact cmdWord_fields w ▸ decodeCmdFields_eq_ok h

/-! ## The refused words -/

theorem exists_ite_ok_error {c : Prop} [Decidable c] {i : Instr} {e₀ : DecodeError} :
    (∃ e, (if c then Except.ok i else .error e₀) = .error e) ↔ ¬ c := by
  split <;> simp [*]

/-- 30_encoding.md R91. -/
theorem decodeSeq_refused_iff (c : BitVec 5) : (∃ e, decodeSeq c = .error e) ↔ c.toNat = 15 ∨ 20 ≤ c.toNat := by
  unfold decodeSeq
  split
  case h_20 =>
    have hlisted : c.toNat = 15 ∨ 20 ≤ c.toNat := by simp only [imp_false] at *; omega
    simp [hlisted]
  all_goals simp [*]

/-- 30_encoding.md R92. -/
theorem decodeReqFields_refused_iff (w : BitVec 37) (fn : BitVec 2) (arg : BitVec 3) (duty : Word) :
    (∃ e, decodeReqFields w fn arg duty = .error e) ↔
      (fn = 2#2 ∧ 6 ≤ arg.toNat) ∨
      ((fn = 0#2 ∨ fn = 1#2) ∧ (arg ≠ 0#3 ∨ duty ≠ 0#32)) ∨
      (fn = 3#2 ∧ (arg.extractLsb' 1 2 ≠ 0#2 ∨ duty ≠ 0#32)) := by
  obtain rfl | rfl | rfl | rfl := reqFn_cases fn
  all_goals
    refine exists_ite_ok_error.trans ?_
    simp [legalStep_eq_false, not_and_or, -not_and]

/-- 30_encoding.md R93. -/
theorem decodeCmdFields_refused_iff (w : BitVec 38) (op : BitVec 3) (sel : BitVec 2) (flag : BitVec 1) (val : Word) :
    (∃ e, decodeCmdFields w op sel flag val = .error e) ↔
      6 ≤ op.toNat ∨
      ((op = 0#3 ∨ op = 1#3) ∧ sel = 3#2) ∨
      (op = 0#3 ∧ val ≠ 0#32) ∨
      (op = 2#3 ∧ (flag ≠ 0#1 ∨ val ≠ 0#32)) ∨
      ((op = 3#3 ∨ op = 4#3 ∨ op = 5#3) ∧ (sel ≠ 0#2 ∨ flag ≠ 0#1)) ∨
      (op = 3#3 ∧ val ≠ 0#32) := by
  obtain hop | rfl | rfl | rfl | rfl | rfl | rfl := cmdOp_cases op
  · exact iff_of_true ⟨_, decodeCmdFields_of_reserved_op hop sel flag val⟩ (.inl hop)
  all_goals
    refine exists_ite_ok_error.trans ?_
    simp [legalPhase_eq_false, not_and_or, or_assoc, -not_and]

/-- Settles O41: the refused fields of each kind, read off the word. -/
theorem reservedWordsAreExactlyTheListed : Obligations.ReservedWordsAreExactlyTheListed := by
  unfold Obligations.ReservedWordsAreExactlyTheListed
  refine ⟨decodeSeq_refused_iff, fun w => ?request, fun w => ?port⟩
  case request =>
    have h := decodeReqFields_refused_iff w (reqFn w) (reqArg w) (reqDuty w)
    rw [reqArg_high] at h
    exact h
  case port => exact decodeCmdFields_refused_iff w (cmdOp w) (cmdSel w) (cmdFlag w) (cmdVal w)

end Sys2Proof.Machine
end

section
/-! PROOFS. The safety monitor (family 40_safety_monitor.md): the settled obligation O9. -/

namespace Sys2Proof.Machine

theorem exec_fchk (s : State) : exec .fchk s = .next ((faultCheck s).2.answerRequest (some (faultCheck s).1)) := rfl

/-- The fault condition of R110, as the answer line carries it. -/
theorem faultCondition_eq_decide (e x : Bool) : faultCondition e x = decide (e = false ∨ x = true) :=
  Bool.eq_iff_iff.mpr (faultCondition_eq_true.trans decide_eq_true_iff.symm)

/-- Settles O9: `FCHK` answers the fault condition of the two levels it draws, and changes what `faultCheck_snd` says. -/
theorem faultCheckSamplesBothPins : Obligations.FaultCheckSamplesBothPins := by
  unfold Obligations.FaultCheckSamplesBothPins
  rintro s e x rfl rfl
  rw [exec_fchk, faultCheck_fst, faultCheck_snd, faultCondition_eq_decide]
  rfl

end Sys2Proof.Machine
end

section
/-! PROOFS. The commutation engine (family 41_commutation.md).

What a fault sample, CS2 to CS8 and the request COMMUTATE leave of a state; the eight micro-operations as one run; the
settled obligations O10, O11, O12, O14 to O21. -/

namespace Sys2Proof.Machine

/-! ## The two outcomes of a fault sample -/

/-- All that the entry into FaultHalted changes, the sample included (60_exceptions.md R224, R225). -/
theorem enterFaultHalted_faultCheck (s : State) :
    enterFaultHalted (faultCheck s).2 = { s with
      motor := { s.motor with currentHighSide := none, currentLowSide := none }
      driver := DriverImage.allOff
      trace := s.trace ++ (faultCheckEvents s ++ safeOffEvents)
      env := s.env.afterPin.afterPin
      seq := SeqCode.HENTER } := by
  simp [enterFaultHalted_eq, faultCheck_snd]

theorem faultCheck_eq_false {s : State} :
    (faultCheck s).1 = false ↔ s.env.pinLevel .estop = true ∧ s.env.afterPin.pinLevel .fault = false :=
  faultCondition_eq_false

theorem faultCheck_eq_true {s : State} :
    (faultCheck s).1 = true ↔ s.env.pinLevel .estop = false ∨ s.env.afterPin.pinLevel .fault = true :=
  faultCondition_eq_true

theorem exec_cs1_of_clear {s : State} (hf : (faultCheck s).1 = false) :
    exec .cs1 s = .next ((faultCheck s).2.setSeq SeqCode.CS2) := by
  simp [exec, execCs1, hf]

theorem exec_cs1_of_fault {s : State} (hf : (faultCheck s).1 = true) :
    exec .cs1 s = .next (enterFaultHalted (faultCheck s).2) := by
  simp [exec, execCs1, hf]

theorem exec_wfault_of_clear {s : State} (hf : (faultCheck s).1 = false) :
    exec .wfault s = .next ((faultCheck s).2.setSeq SeqCode.WINC) := by
  simp [exec, execWfault, hf]

theorem exec_wfault_of_fault {s : State} (hf : (faultCheck s).1 = true) :
    exec .wfault s = .next (enterFaultHalted (faultCheck s).2) := by
  simp [exec, execWfault, hf]

theorem exec_hpoll (s : State) :
    exec .hpoll s = .next ((faultCheck s).2.setSeq (if (faultCheck s).1 then SeqCode.HSLEEP else SeqCode.HEXIT)) := rfl

/-- Settles O10: each of the three changes what the sample changes, and `seq`. -/
theorem clearSampleLetsTheProgramGoOn : Obligations.ClearSampleLetsTheProgramGoOn := by
  unfold Obligations.ClearSampleLetsTheProgramGoOn
  rintro s e x rfl rfl
  refine ⟨fun he hx => ?goOn, ?hpoll⟩
  case goOn =>
    have hf := faultCheck_eq_false.mpr ⟨he, hx⟩
    rw [exec_cs1_of_clear hf, exec_wfault_of_clear hf, faultCheck_snd]
    exact ⟨rfl, rfl⟩
  case hpoll =>
    rw [exec_hpoll, faultCheck_snd]
    cases hf : (faultCheck s).1 with
    | false => rw [if_pos (faultCheck_eq_false.mp hf)]; rfl
    | true => rw [if_neg (mt faultCheck_eq_false.mpr (by simp [hf]))]; rfl

/-- Settles O11: CS1 and WFAULT enter FaultHalted alike. -/
theorem faultySampleEntersFaultHalted : Obligations.FaultySampleEntersFaultHalted := by
  unfold Obligations.FaultySampleEntersFaultHalted
  rintro s e x rfl rfl hfault i hi
  have hf := faultCheck_eq_true.mpr hfault
  have hx : exec i s = .next (enterFaultHalted (faultCheck s).2) := by
    rcases List.mem_pair.mp hi with rfl | rfl
    · exact exec_cs1_of_fault hf
    · exact exec_wfault_of_fault hf
  rw [hx, enterFaultHalted_faultCheck]
  rfl

/-- Settles O12: the request is `safeOff`, with no answer. -/
theorem safeOffForcesEverySwitchOff : Obligations.SafeOffForcesEverySwitchOff := by
  unfold Obligations.SafeOffForcesEverySwitchOff
  intro s
  have hx : exec .safeoff s = .next ((safeOff s).answerRequest none) := rfl
  rw [hx, safeOff_eq]
  rfl

/-! ## CS2 to CS8

Each is one electrical transition or deadtime and a move of `seq`; the code it was run from does not matter. -/

section
variable (u : State) (c : BitVec 5)

theorem lowSideOff_setSeq : lowSideOff (u.setSeq c) = (lowSideOff u).setSeq c := by
  rw [lowSideOff_eq, lowSideOff_eq]; rfl

theorem exec_cs2_setSeq : exec .cs2 (u.setSeq c) = .next ((lowSideOff u).setSeq SeqCode.CS3) := by
  simp only [exec, execCs2, lowSideOff_setSeq]
  rfl

theorem exec_cs3_setSeq : exec .cs3 (u.setSeq c) = .next ((deadtime u).setSeq SeqCode.CS4) := rfl

theorem exec_cs4_setSeq :
    exec .cs4 (u.setSeq c) = .next ((otherHighSidesOff u.targetHigh u).setSeq SeqCode.CS5) := rfl

theorem exec_cs5_setSeq : exec .cs5 (u.setSeq c) = .next ((deadtime u).setSeq SeqCode.CS6) := rfl

theorem exec_cs6_setSeq : exec .cs6 (u.setSeq c) = .next ((highSideOn u.targetHigh u).setSeq SeqCode.CS7) := rfl

theorem exec_cs7_setSeq : exec .cs7 (u.setSeq c) = .next ((deadtime u).setSeq SeqCode.CS8) := rfl

theorem exec_cs8_setSeq :
    exec .cs8 (u.setSeq c) = .next ((lowSideOn u.targetLow u.motor.pwmLevel u).setSeq SeqCode.WINIT) := rfl

end

theorem lowSideOff_of_none {s : State} (h : s.motor.currentLowSide = none) : lowSideOff s = s := by
  have hset : s.setLowSide none = s := by rw [← h]; rfl
  simp [lowSideOff, h, hset]

/-- Settles O14: with a low side recorded its off command, with none nothing. -/
theorem cs2DisablesTheActiveLowSide : Obligations.Cs2DisablesTheActiveLowSide := by
  unfold Obligations.Cs2DisablesTheActiveLowSide
  refine fun s => ⟨fun l hl => ?some, fun hl => ?none⟩
  all_goals refine (exec_cs2_setSeq s s.seq).trans ?_
  case some => rw [lowSideOff_eq, hl]; rfl
  case none => rw [lowSideOff_of_none hl]; rfl

/-- Settles O15: a deadtime is one event, whatever the state. -/
theorem deadtimeMicroOpsDelayAndGoOn : Obligations.DeadtimeMicroOpsDelayAndGoOn := by
  unfold Obligations.DeadtimeMicroOpsDelayAndGoOn
  exact fun s => ⟨exec_cs3_setSeq s s.seq, exec_cs5_setSeq s s.seq, exec_cs7_setSeq s s.seq, rfl, rfl, rfl⟩

/-- Settles O16: the premises name the two other phases of the target, case by case. -/
theorem cs4FloatsTheOtherHighSides : Obligations.Cs4FloatsTheOtherHighSides := by
  unfold Obligations.Cs4FloatsTheOtherHighSides
  intro s p q hA hB hC
  have hother : otherPhases s.targetHigh = (p, q) := by
    cases htarget : s.targetHigh with
    | A => obtain ⟨rfl, rfl⟩ := hA htarget; rfl
    | B => obtain ⟨rfl, rfl⟩ := hB htarget; rfl
    | C => obtain ⟨rfl, rfl⟩ := hC htarget; rfl
  refine (exec_cs4_setSeq s s.seq).trans ?_
  rw [otherHighSidesOff_eq, hother]
  rfl

/-- Settles O17: the target high side is the table's. -/
theorem cs6ActivatesTheTargetHighSide : Obligations.Cs6ActivatesTheTargetHighSide := by
  unfold Obligations.Cs6ActivatesTheTargetHighSide
  intro s h l htable
  have htarget : s.targetHigh = h := congrArg Prod.fst htable
  refine (exec_cs6_setSeq s s.seq).trans ?_
  rw [htarget, highSideOn_eq]
  rfl

/-- Settles O18: the target low side is the table's, and `pwmLevel` is passed as it is. -/
theorem cs8EnablesTheTargetLowSide : Obligations.Cs8EnablesTheTargetLowSide := by
  unfold Obligations.Cs8EnablesTheTargetLowSide
  refine ⟨fun s h l htable => ?_, rfl⟩
  have htarget : s.targetLow = l := congrArg Prod.snd htable
  refine (exec_cs8_setSeq s s.seq).trans ?_
  rw [htarget, lowSideOn_eq]
  rfl

/-! ## The request COMMUTATE (41_commutation.md R121) -/

theorem commutate_bus (i : StepIndex) (duty : Word) (s : State) : (commutate i duty s).2.bus = s.bus := by
  cases hf : (faultCheck s).1 with
  | false => rw [commutate_of_clear s i duty hf]
  | true => rw [commutate_of_fault s i duty hf, enterFaultHalted_faultCheck]

/-- Beyond its big step the request only answers. -/
theorem exec_commutate (i : StepIndex) (duty : Word) (s : State) :
    exec (.commutate (stepCode i) duty) s = .next { (commutate i duty s).2 with
      bus := { s.bus with reqAnswer := some (commutate i duty s).1 } } := by
  rw [← commutate_bus i duty s]
  exact execCommutate_next_iff.mpr ⟨i, stepOfCode_code i, rfl⟩

/-- Settles O20: the big step of a faulty sample is the entry into FaultHalted. -/
theorem commutateOnFaultForcesTheSafeState : Obligations.CommutateOnFaultForcesTheSafeState := by
  unfold Obligations.CommutateOnFaultForcesTheSafeState
  rintro s i duty e x rfl rfl hfault
  have hf := faultCheck_eq_true.mpr hfault
  rw [exec_commutate, commutate_of_fault s i duty hf, enterFaultHalted_faultCheck]
  rfl

/-! ### The image after a clear sample -/

section
variable (d : DriverImage) (h l k : Phase) (duty dead : Word) (low : Option Phase)

theorem lsEn_get_applyAll_lowSideOffEvents :
    (d.applyAll (lowSideOffEvents low)).lsEn.get k = if low = some k then false else d.lsEn.get k := by
  cases low with
  | none => rfl
  | some j => simp [lowSideOffEvents, DriverImage.apply_setLs, PerPhase.get_set, eq_comm]

theorem lsDuty_get_applyAll_lowSideOffEvents :
    (d.applyAll (lowSideOffEvents low)).lsDuty.get k = if low = some k then 0#32 else d.lsDuty.get k := by
  cases low with
  | none => rfl
  | some j => simp [lowSideOffEvents, DriverImage.apply_setLs, PerPhase.get_set, eq_comm]

theorem applyAll_commutateEvents :
    d.applyAll (commutateEvents h l duty dead low) =
      { hsOn := ((d.hsOn.set (otherPhases h).1 false).set (otherPhases h).2 false).set h true
        lsEn := (d.applyAll (lowSideOffEvents low)).lsEn.set l true
        lsDuty := (d.applyAll (lowSideOffEvents low)).lsDuty.set l duty } := by
  rw [commutateEvents, DriverImage.applyAll_append, ← applyAll_lowSideOffEvents_hsOn d low]
  rfl

theorem get_otherPhasesOff_highOn (v : PerPhase Bool) :
    (((v.set (otherPhases h).1 false).set (otherPhases h).2 false).set h true).get k = decide (k = h) := by
  cases h <;> cases k <;> rfl

end

/-- The other two phases, in the ascending order of 41_commutation.md R125. -/
theorem otherPhases_of_order {h p q : Phase} (hp : p ≠ h) (hq : q ≠ h) (hlt : p.code.toNat < q.code.toNat) :
    otherPhases h = (p, q) := by
  have hord : (otherPhases h).1.code.toNat < (otherPhases h).2.code.toNat := by cases h <;> decide
  have other {r : Phase} (hr : r ≠ h) : r = (otherPhases h).1 ∨ r = (otherPhases h).2 := by
    by_contra hnot
    obtain ⟨h1, h2⟩ := not_or.mp hnot
    exact hr (eq_of_not_others h r h1 h2)
  obtain rfl | rfl := other hp
  · obtain rfl | rfl := other hq
    · exact absurd hlt (lt_irrefl _)
    · rfl
  · obtain rfl | rfl := other hq
    · exact absurd hlt hord.not_gt
    · exact absurd hlt (lt_irrefl _)

/-- Settles O19: the events are those of `commutateEvents`, and the image is what they leave. -/
theorem commutateAppliesTheStepWithDeadtimes : Obligations.CommutateAppliesTheStepWithDeadtimes := by
  unfold Obligations.CommutateAppliesTheStepWithDeadtimes
  rintro s i duty dead h l p q off he hx htable rfl hp hq hlt hnone hsome
  have hf := faultCheck_eq_false.mpr ⟨he, hx⟩
  have hother := otherPhases_of_order hp hq hlt
  have hoff : lowSideOffEvents s.motor.currentLowSide = off := by
    cases hlow : s.motor.currentLowSide with
    | none => exact (hnone hlow).symm
    | some k => exact (hsome k hlow).symm
  refine ⟨s.driver.applyAll (commutateEvents h l duty s.config.deadTimeUs s.motor.currentLowSide), ?step, ?image⟩
  case step =>
    rw [exec_commutate, commutate_of_clear s i duty hf, htable, commutateEvents, hother, hoff]
    rfl
  case image =>
    rw [applyAll_commutateEvents]
    refine ⟨fun k => get_otherPhasesOff_highOn h k _, fun k => ?_, fun k => ?_⟩
    · rw [PerPhase.get_set, lsEn_get_applyAll_lowSideOffEvents]
    · rw [PerPhase.get_set, lsDuty_get_applyAll_lowSideOffEvents]

/-! ### The request and the eight micro-operations -/

/-- What follows a clear sample in one `commutateStep`: the electrical transitions and deadtimes of R123 to R129. -/
def electricalSteps (h l : Phase) (duty : Word) (u : State) : State :=
  u |> lowSideOff |> deadtime |> otherHighSidesOff h |> deadtime |> highSideOn h |> deadtime |> lowSideOn l duty
    |> State.setSeq SeqCode.WINIT

theorem commutate_snd_of_clear {s : State} (i : StepIndex) (duty : Word) (hf : (faultCheck s).1 = false) :
    (commutate i duty s).2 = electricalSteps (commutationTable i).1 (commutationTable i).2 duty (faultCheck s).2 := by
  simp only [commutate, hf]
  rfl

/-- One undisturbed micro-operation as the first step of a run. -/
theorem State.Quiet.run_micro {u v : State} {c d : BitVec 5} {i : Instr} (q : (u.setSeq c).Quiet)
    (hd : decodeSeq c = .ok i) (hx : exec i (u.setSeq c) = .next (v.setSeq d)) :
    (v.setSeq d).Quiet ∧ ∀ n, core.run (n + 1) (u.setSeq c) = core.run n (v.setSeq d) :=
  ⟨q.after_exec hx, fun n => core_run_succ n ((q.step_eq hd).trans hx)⟩

theorem run_electricalSteps {u : State} (q : (u.setSeq SeqCode.CS2).Quiet) :
    core.run 7 (u.setSeq SeqCode.CS2) = .next (electricalSteps u.targetHigh u.targetLow u.motor.pwmLevel u) := by
  obtain ⟨q3, h2⟩ := q.run_micro rfl (exec_cs2_setSeq _ _)
  obtain ⟨q4, h3⟩ := q3.run_micro rfl (exec_cs3_setSeq _ _)
  obtain ⟨q5, h4⟩ := q4.run_micro rfl (exec_cs4_setSeq _ _)
  obtain ⟨q6, h5⟩ := q5.run_micro rfl (exec_cs5_setSeq _ _)
  obtain ⟨q7, h6⟩ := q6.run_micro rfl (exec_cs6_setSeq _ _)
  obtain ⟨q8, h7⟩ := q7.run_micro rfl (exec_cs7_setSeq _ _)
  obtain ⟨-, h8⟩ := q8.run_micro rfl (exec_cs8_setSeq _ _)
  have hmotor : (lowSideOff u).motor = { u.motor with currentLowSide := none } := by rw [lowSideOff_eq]
  have hhigh : (lowSideOff u).targetHigh = u.targetHigh := by rw [State.targetHigh, hmotor]; rfl
  have hlow : (lowSideOff u).targetLow = u.targetLow := by rw [State.targetLow, hmotor]; rfl
  have hduty : (lowSideOff u).motor.pwmLevel = u.motor.pwmLevel := by rw [hmotor]
  rw [h2, h3, h4, h5, h6, h7, h8, ← hhigh, ← hlow, ← hduty]
  rfl

section
variable {s : State} (q : s.Quiet) (hseq : s.seq = SeqCode.CS1)
include q hseq

theorem step_eq_exec_cs1 : step s = exec .cs1 s := q.step_eq (hseq ▸ rfl)

theorem run_commutateStep_of_clear (hf : (faultCheck s).1 = false) :
    core.run 8 s = .next (commutate s.motor.stepIndex s.motor.pwmLevel s).2 := by
  have hx := exec_cs1_of_clear hf
  rw [core_run_succ 7 ((step_eq_exec_cs1 q hseq).trans hx), run_electricalSteps (q.after_exec hx),
    commutate_snd_of_clear _ _ hf]
  simp only [State.targetHigh, State.targetLow, faultCheck_snd]

theorem run_commutateStep_of_fault (hf : (faultCheck s).1 = true) :
    core.run 1 s = .next (commutate s.motor.stepIndex s.motor.pwmLevel s).2 := by
  rw [core_run_succ 0 ((step_eq_exec_cs1 q hseq).trans (exec_cs1_of_fault hf)), commutate_of_fault s _ _ hf]
  rfl

end

/-- Settles O21: both runs end in the state of the big step, and the request adds its answer. -/
theorem eightMicroOpsRefineCommutate : Obligations.EightMicroOpsRefineCommutate := by
  unfold Obligations.EightMicroOpsRefineCommutate
  refine fun s q hseq => ⟨fun ⟨he, hx⟩ => ?clear, fun hfault => ?fault⟩
  case clear =>
    have hf := faultCheck_eq_false.mpr ⟨he, hx⟩
    refine ⟨_, run_commutateStep_of_clear q hseq hf, ?_⟩
    rw [exec_commutate, commutate_of_clear s _ _ hf]
  case fault =>
    have hf := faultCheck_eq_true.mpr hfault
    refine ⟨_, run_commutateStep_of_fault q hseq hf, ?_⟩
    rw [exec_commutate, commutate_of_fault s _ _ hf]

end Sys2Proof.Machine
end

section
/-! PROOFS. The history of the on commands, and the invariants at reset (family 41_commutation.md).

Which events turn a switch on, and how a guarded history grows; the history invariant, place by place, and its runs from
reset; the settled obligations O47, O49, O50 and O51. -/

namespace Sys2Proof.Machine

/-! ## The events that turn a switch on -/

/-- A command that turns a switch on. -/
def Event.turnsOn : Event → Bool
  | .setHs _ on => on
  | .setLs _ en _ => en
  | .rdPin _ _ | .rdTime _ | .dlyMs _ | .dlyUs _ => false

theorem turnsOn_of_mem_safeOffEvents {e : Event} (h : e ∈ safeOffEvents) : e.turnsOn = false := by
  have hall : ∀ x ∈ safeOffEvents, x.turnsOn = false := by decide
  exact hall e h

theorem lowSideOffEvents_cases (low : Option Phase) :
    lowSideOffEvents low = [] ∨ ∃ q, lowSideOffEvents low = [Event.setLs q false 0#32] := by
  cases low with
  | none => exact .inl rfl
  | some l => exact .inr ⟨l, rfl⟩

/-- CS6 and CS8 alone turn a switch on (44_driver_port.md R207). -/
theorem turnsOn_of_mem_instrEvents {i : Instr} {c : BitVec 5} {s : State} {e : Event} (hc : encode i = .seq c)
    (h6 : i ≠ .cs6) (h8 : i ≠ .cs8) (he : e ∈ instrEvents i s) : e.turnsOn = false := by
  have hsample (h : e ∈ faultCheckEvents s) : e.turnsOn = false := by
    rcases List.mem_pair.mp h with rfl | rfl
    all_goals rfl
  cases i with
  | cs1 | wfault =>
    rcases List.mem_append.mp he with h | h
    · exact hsample h
    · split at h
      · exact turnsOn_of_mem_safeOffEvents h
      · cases h
  | cs2 =>
    rcases lowSideOffEvents_cases s.motor.currentLowSide with h | ⟨q, h⟩
    · rw [instrEvents, h] at he; cases he
    · rw [instrEvents, h] at he; cases List.mem_singleton.mp he; rfl
  | cs3 | cs5 | cs7 | wsleep | hsleep => cases List.mem_singleton.mp he; rfl
  | cs4 | winc | wdec =>
    rcases List.mem_pair.mp he with rfl | rfl
    all_goals rfl
  | henter | hexit => exact turnsOn_of_mem_safeOffEvents he
  | hpoll => exact hsample he
  | winit | wchk | adv => cases he
  | cs6 => exact absurd rfl h6
  | cs8 => exact absurd rfl h8
  | fchk | safeoff | commutate | btnpoll | seths | setls | rdpin | rdtime | dlyms | dlyus => cases hc

/-! ## A guarded history stays guarded -/

section
variable {s t : State} (g : s.TraceGuarded) (hconf : t.config = s.config)
include g hconf

theorem State.TraceGuarded.append_off {es : List Event} (ht : t.trace = s.trace ++ es)
    (hoff : ∀ e ∈ es, e.turnsOn = false) : t.TraceGuarded := by
  have stood {l r e} (hl : t.trace = l ++ e :: r) (hon : e.turnsOn = true) : ∃ r', s.trace = l ++ e :: r' :=
    occurs_before (ht.symm.trans hl) fun hmem => by simp [hoff e hmem] at hon
  constructor
  case high => intro l r h hl; obtain ⟨r', hs⟩ := stood hl rfl; exact hconf ▸ g.high l r' h hs
  case low => intro l r p d hl; obtain ⟨r', hs⟩ := stood hl rfl; exact hconf ▸ g.low l r' p d hs

theorem State.TraceGuarded.append_high_on {h : Phase} (hg : HighOnGuarded s.config.deadTimeUs s.trace h)
    (ht : t.trace = s.trace ++ [.setHs h true]) : t.TraceGuarded := by
  constructor
  case high =>
    intro l r k hl
    rcases occurs_last_or_before (ht.symm.trans hl) with ⟨rfl, heq⟩ | ⟨r', hs⟩
    · cases heq; exact hconf ▸ hg
    · exact hconf ▸ g.high l r' k hs
  case low =>
    intro l r p d hl
    obtain ⟨r', hs⟩ := occurs_before (ht.symm.trans hl) (by simp)
    exact hconf ▸ g.low l r' p d hs

theorem State.TraceGuarded.append_low_on {p : Phase} {d : Word} (hg : LowOnGuarded s.config.deadTimeUs s.trace p)
    (ht : t.trace = s.trace ++ [.setLs p true d]) : t.TraceGuarded := by
  constructor
  case high =>
    intro l r k hl
    obtain ⟨r', hs⟩ := occurs_before (ht.symm.trans hl) (by simp)
    exact hconf ▸ g.high l r' k hs
  case low =>
    intro l r k w hl
    rcases occurs_last_or_before (ht.symm.trans hl) with ⟨rfl, heq⟩ | ⟨r', hs⟩
    · cases heq; exact hconf ▸ hg
    · exact hconf ▸ g.low l r' k w hs

end

/-- Every micro-operation keeps the guard: CS6 and CS8 find it at the end of the history, the others turn nothing on. -/
theorem State.TraceInv.guarded_after_exec {s t : State} {i : Instr} (h : s.TraceInv) (hcode : encode i = .seq s.seq)
    (hx : exec i s = .next t) : t.TraceGuarded := by
  obtain ⟨hconf, -⟩ := onlyTheNamedInstructionsWriteAnElement i s t hx
  obtain ⟨ht, -⟩ := exec_follows hx
  by_cases h6 : i = .cs6
  · subst h6
    exact h.guarded.append_high_on hconf (h.at_cs6 (CodeWord.seq.inj hcode).symm) ht
  by_cases h8 : i = .cs8
  · subst h8
    obtain ⟨l, hg, hs⟩ := h.at_cs8 (CodeWord.seq.inj hcode).symm
    exact h.guarded.append_low_on hconf ⟨l, s.targetHigh, table_high_ne_low _, hg, hs⟩ ht
  exact h.guarded.append_off hconf ht fun _ he => turnsOn_of_mem_instrEvents hcode h6 h8 he

/-! ## The end of the history at each place -/

/-- The places inside one `commutateStep`, where the invariant says how the history ends. -/
def insideStepCodes : List (BitVec 5) :=
  [SeqCode.CS2, SeqCode.CS3, SeqCode.CS4, SeqCode.CS5, SeqCode.CS6, SeqCode.CS7, SeqCode.CS8]

/-- What is asked at the place `d` is met at every other place. -/
theorem State.met_elsewhere {u : State} {c d : BitVec 5} {P : Prop} (hne : c ≠ d) (hat : (u.setSeq c).seq = d) : P :=
  absurd hat hne

/-- Outside a `commutateStep` nothing is asked of the end of the history. -/
theorem State.TraceGuarded.traceInv_outside {u : State} {c : BitVec 5} (g : (u.setSeq c).TraceGuarded)
    (q : (u.setSeq c).Quiet) (hc : c ∉ insideStepCodes) : (u.setSeq c).TraceInv := by
  simp only [insideStepCodes, List.mem_cons, not_or] at hc
  obtain ⟨h2, h3, h4, h5, h6, h7, h8, -⟩ := hc
  exact ⟨q, g, (absurd · h2), (absurd · h3), (absurd · h4), (absurd · h5), (absurd · h6), (absurd · h7), (absurd · h8)⟩

/-- Every micro-operation keeps the invariant: within a step each adds its events to the end the place before it asked. -/
theorem State.TraceInv.after_exec {s t : State} {i : Instr} (h : s.TraceInv) (hcode : encode i = .seq s.seq)
    (hx : exec i s = .next t) : t.TraceInv := by
  have q := h.quiet.after_exec hx
  have g := h.guarded_after_exec hcode hx
  obtain ⟨ht, -⟩ := exec_follows hx
  have at_place {c : BitVec 5} (hc : encode i = .seq c) : s.seq = c := CodeWord.seq.inj (hcode.symm.trans hc)
  cases i with
  | cs1 =>
    rcases execCs1_cases hx with ⟨-, rfl⟩ | ⟨hf, rfl⟩
    · exact g.traceInv_outside q (by decide)
    · rw [instrEvents, hf, faultCheckEvents_of_clear s hf] at ht
      refine ⟨q, g, fun _ => ⟨s.trace, ht⟩, ?_, ?_, ?_, ?_, ?_, ?_⟩
      all_goals exact State.met_elsewhere (by decide)
  | cs2 =>
    obtain ⟨l, hs⟩ := h.at_cs2 (at_place rfl)
    rw [hs] at ht
    cases hx
    refine ⟨q, g, ?_, fun _ => ⟨l, _, lowSideOffEvents_cases _, ht⟩, ?_, ?_, ?_, ?_, ?_⟩
    all_goals exact State.met_elsewhere (by decide)
  | cs3 =>
    obtain ⟨l, off, hoff, hs⟩ := h.at_cs3 (at_place rfl)
    rw [hs] at ht
    cases hx
    refine ⟨q, g, ?_, ?_, fun _ => ⟨l, off, hoff, ht⟩, ?_, ?_, ?_, ?_⟩
    all_goals exact State.met_elsewhere (by decide)
  | cs4 =>
    obtain ⟨l, off, hoff, hs⟩ := h.at_cs4 (at_place rfl)
    rw [hs, List.append_assoc _ [_]] at ht
    cases hx
    refine ⟨q, g, ?_, ?_, ?_, fun _ => ⟨l, off, hoff, ht⟩, ?_, ?_, ?_⟩
    all_goals exact State.met_elsewhere (by decide)
  | cs5 =>
    obtain ⟨l, off, hoff, hs⟩ := h.at_cs5 (at_place rfl)
    rw [hs, List.append_assoc _ [_, _, _]] at ht
    cases hx
    refine ⟨q, g, ?_, ?_, ?_, ?_, fun _ => ⟨l, off, hoff, ht⟩, ?_, ?_⟩
    all_goals exact State.met_elsewhere (by decide)
  | cs6 =>
    have hhigh := h.at_cs6 (at_place rfl)
    cases hx
    refine ⟨q, g, ?_, ?_, ?_, ?_, ?_, fun _ => ⟨s.trace, hhigh, ht⟩, ?_⟩
    all_goals exact State.met_elsewhere (by decide)
  | cs7 =>
    obtain ⟨l, hhigh, hs⟩ := h.at_cs7 (at_place rfl)
    rw [hs, List.append_assoc] at ht
    cases hx
    refine ⟨q, g, ?_, ?_, ?_, ?_, ?_, ?_, fun _ => ⟨l, hhigh, ht⟩⟩
    all_goals exact State.met_elsewhere (by decide)
  | wfault =>
    rcases execWfault_cases hx with ⟨-, rfl⟩ | ⟨-, rfl⟩
    · exact g.traceInv_outside q (by decide)
    · exact g.traceInv_outside q (by decide)
  | wchk | hpoll => cases hx; exact g.traceInv_outside q (by split <;> decide)
  | cs8 | winit | winc | wdec | wsleep | adv | henter | hsleep | hexit =>
    cases hx
    exact g.traceInv_outside q (by decide)
  | fchk | safeoff | commutate | btnpoll | seths | setls | rdpin | rdtime | dlyms | dlyus => cases hcode

/-- Settles O49: an undisturbed step runs the micro-operation in `seq`, and each of them keeps the invariant. -/
theorem stepKeepsTheTraceInvariant : Obligations.StepKeepsTheTraceInvariant := by
  unfold Obligations.StepKeepsTheTraceInvariant
  intro s t h hstep
  obtain ⟨i, hd, hx⟩ := h.quiet.step_inv hstep
  exact h.after_exec (decodeSeq_encode hd) hx

/-! ## Reset -/

theorem State.atReset_quiet (c : Config) (d : DriverImage) {e : Environment} (he : e.rst = false) :
    (State.atReset c d e).Quiet :=
  ⟨rfl, rfl, he⟩

theorem State.traceGuarded_of_nil {s : State} (hs : s.trace = []) : s.TraceGuarded := by
  constructor
  case high => intro l r h hl; simp [hs] at hl
  case low => intro l r p d hl; simp [hs] at hl

theorem State.atReset_traceInv (c : Config) (d : DriverImage) {e : Environment} (he : e.rst = false) :
    (State.atReset c d e).TraceInv := by
  have g : (State.atReset c d e).TraceGuarded := State.traceGuarded_of_nil rfl
  exact g.traceInv_outside (u := State.atReset c d e) (c := SeqCode.CS1) (State.atReset_quiet c d he) (by decide)

/-- Settles O50: no event yet, and CS1 asks nothing of the history. -/
theorem traceInvariantHoldsAfterReset : Obligations.TraceInvariantHoldsAfterReset := by
  unfold Obligations.TraceInvariantHoldsAfterReset
  exact ⟨State.atReset_traceInv _ _ rfl, fun c d _ he => State.atReset_traceInv c d he⟩

/-- Settles O47: with the image all off, both fields `None` and `seq` at CS1 the driver invariant asks nothing more. -/
theorem driveInvariantHoldsAfterReset : Obligations.DriveInvariantHoldsAfterReset := by
  unfold Obligations.DriveInvariantHoldsAfterReset
  intro c d e he hboot
  have hoff : (State.atReset c d e).AllOff := ⟨rfl, rfl, hboot⟩
  have hplace : (State.atReset c d e).MeetsPlace SeqCode.CS1 := State.meetsPlace_of_free _ (by decide)
  exact .of_setSeq (u := State.atReset c d e) (State.atReset_quiet c d he) hoff.recorded hplace

/-! ## Runs -/

/-- What every step keeps, of undisturbed states, lasts along every run from a legal `seq`. -/
theorem core_run_keeps {P : State → Prop} (hquiet : ∀ s, P s → s.Quiet)
    (hkeep : ∀ s t, P s → step s = .next t → P t) (n : Nat) {s : State} (h : P s) (hl : s.SeqLegal) :
    ∃ t, core.run n s = .next t ∧ P t := by
  induction n generalizing s with
  | zero => exact ⟨s, rfl, h⟩
  | succ n ih =>
    obtain ⟨u, hstep, hlu⟩ := (hquiet s h).progress hl
    rw [core_run_succ n hstep]
    exact ih (hkeep s u h hstep) hlu

/-- Settles O51: the invariant of the history holds at reset and lasts along every run. -/
theorem noSwitchIsEverTurnedOnUnguarded : Obligations.NoSwitchIsEverTurnedOnUnguarded := by
  unfold Obligations.NoSwitchIsEverTurnedOnUnguarded
  intro c d e he n
  obtain ⟨t, hrun, ht⟩ := core_run_keeps (fun _ h => h.quiet) stepKeepsTheTraceInvariant n
    (State.atReset_traceInv c d he) ⟨.cs1, rfl⟩
  exact ⟨t, hrun, ht.guarded⟩

end Sys2Proof.Machine
end

section
/-! PROOFS. Debounce and repeat (family 42_debounce.md): the settled obligations O22, O23 and O24.

The six outcomes of one poll, by the level, the stable level and the time that has passed; polls on a clock that advances by
one at each of them. -/

namespace Sys2Proof.Machine

/-! ## Time that has passed (42_debounce.md R150, R155) -/

theorem hasPersisted_of_le {now since ms : Word} (h : ms.toNat ≤ (now - since).toNat) : hasPersisted now since ms = true :=
  decide_eq_true h

theorem hasPersisted_of_lt {now since ms : Word} (h : (now - since).toNat < ms.toNat) : hasPersisted now since ms = false :=
  decide_eq_false (Nat.not_le.mpr h)

/-- On the wrapping clock the distance to a time `k` milliseconds ago is `k`, below one turn of the clock. -/
theorem toNat_add_ofNat_sub_self (since : Word) {k : Nat} (hk : k < 2 ^ 32) :
    (since + BitVec.ofNat 32 k - since).toNat = k := by
  rw [add_sub_cancel_left, BitVec.toNat_ofNat, Nat.mod_eq_of_lt hk]

/-! ## The outcomes of one poll (42_debounce.md R151) -/

section
variable {c : Config} {now : Word} {r : ButtonInput}

theorem ButtonInput.differsSince_of_stable (ht : r.trans = false) : r.differsSince now = now := by
  simp [ButtonInput.differsSince, ht]

theorem ButtonInput.differsSince_of_trans (ht : r.trans = true) : r.differsSince now = r.lastChangeTime := by
  simp [ButtonInput.differsSince, ht]

/-- Outside a transition a difference begins with this poll, so no time has passed since. -/
theorem ButtonInput.elapsed_of_stable (ht : r.trans = false) : (now - r.differsSince now).toNat = 0 := by
  rw [r.differsSince_of_stable ht, sub_self]; rfl

theorem ButtonInput.with_trans_self (ht : r.trans = false) : { r with trans := false } = r := by rw [← ht]

theorem debounce_of_held_waiting (hs : r.stableState = false) (hw : (now - r.lastEventTime).toNat < c.repeatMs.toNat) :
    debounce c false now r = ({ r with trans := false }, false) := by
  rw [debounce_of_held c now r hs, hasPersisted_of_lt hw]; rfl

theorem debounce_of_held_due (hs : r.stableState = false) (hd : c.repeatMs.toNat ≤ (now - r.lastEventTime).toNat) :
    debounce c false now r = ({ r with trans := false, lastEventTime := now }, true) := by
  rw [debounce_of_held c now r hs, hasPersisted_of_le hd]; rfl

theorem debounce_of_differs_waiting {raw : Bool} (hraw : raw ≠ r.stableState)
    (hw : (now - r.differsSince now).toNat < c.debounceMs.toNat) :
    debounce c raw now r = ({ r with trans := true, lastChangeTime := r.differsSince now }, false) := by
  rw [debounce_of_differs c now r hraw, hasPersisted_of_lt hw]; rfl

theorem debounce_of_press_due (hs : r.stableState = true) (hd : c.debounceMs.toNat ≤ (now - r.differsSince now).toNat) :
    debounce c false now r =
      ({ stableState := false, trans := false, lastChangeTime := now, lastEventTime := now }, true) := by
  rw [debounce_of_differs c now r (by simp [hs]), hasPersisted_of_le hd]; rfl

theorem debounce_of_release_due (hs : r.stableState = false) (hd : c.debounceMs.toNat ≤ (now - r.differsSince now).toNat) :
    debounce c true now r = ({ r with stableState := true, trans := false, lastChangeTime := now }, false) := by
  rw [debounce_of_differs c now r (by simp [hs]), hasPersisted_of_le hd]; rfl

end

/-- All that the request `BTNPOLL b` changes: two draws, two events, the answer line and the record of `b`. -/
theorem exec_btnpoll (b : Button) (s : State) :
    exec (.btnpoll b) s = .next (({ s with
      env := s.env.afterPin.afterClock
      trace := s.trace ++ pollEvents b s
      bus := { s.bus with reqAnswer := some (pollResult b s).2 } }).setButton b (pollResult b s).1) := by
  change Host.Outcome.next (afterPoll b s) = _
  rw [afterPoll, pollButton_snd, pollButton_fst]
  cases b <;> rfl

/-- Settles O22: each row is one of the outcomes of a poll, with a transition that is on or that would begin now. -/
theorem buttonPollFollowsTheTransitionTable : Obligations.ButtonPollFollowsTheTransitionTable := by
  unfold Obligations.ButtonPollFollowsTheTransitionTable
  intro b s raw now o c hraw hnow ho hc
  refine ⟨(debounce c raw now o).1, (debounce c raw now o).2, ?exec, ?idle, ?heldWaiting, ?heldDue, ?firstDifference,
    ?pressAtOnce, ?releaseAtOnce, ?goingOn, ?pressDue, ?releaseDue, ?bounceReleased, ?bounceHeldWaiting, ?bounceHeldDue⟩
  case exec => subst hraw hnow ho hc; exact exec_btnpoll b s
  case idle =>
    rintro ht hs rfl
    rw [debounce_of_released c now o hs, o.with_trans_self ht]; exact ⟨rfl, rfl⟩
  case heldWaiting =>
    rintro ht hs rfl hw
    rw [debounce_of_held_waiting hs hw, o.with_trans_self ht]; exact ⟨rfl, rfl⟩
  case heldDue =>
    rintro ht hs rfl hd
    rw [debounce_of_held_due hs hd, ← ht]; exact ⟨rfl, rfl⟩
  case firstDifference =>
    intro ht hne hpos
    rw [debounce_of_differs_waiting hne (by rwa [o.elapsed_of_stable ht]), o.differsSince_of_stable ht]; exact ⟨rfl, rfl⟩
  case pressAtOnce =>
    rintro ht hs rfl hzero
    rw [debounce_of_press_due hs (hzero.trans_le (Nat.zero_le _)), ← ht]; exact ⟨rfl, rfl⟩
  case releaseAtOnce =>
    rintro ht hs rfl hzero
    rw [debounce_of_release_due hs (hzero.trans_le (Nat.zero_le _)), ← ht]; exact ⟨rfl, rfl⟩
  case goingOn =>
    intro ht hne hw
    rw [← o.differsSince_of_trans ht] at hw
    rw [debounce_of_differs_waiting hne hw, o.differsSince_of_trans ht, ← ht]; exact ⟨rfl, rfl⟩
  case pressDue =>
    rintro ht hs rfl hd
    rw [← o.differsSince_of_trans ht] at hd
    rw [debounce_of_press_due hs hd]; exact ⟨rfl, rfl⟩
  case releaseDue =>
    rintro ht hs rfl hd
    rw [← o.differsSince_of_trans ht] at hd
    rw [debounce_of_release_due hs hd]; exact ⟨rfl, rfl⟩
  case bounceReleased =>
    rintro - hs rfl
    rw [debounce_of_released c now o hs]; exact ⟨rfl, rfl⟩
  case bounceHeldWaiting =>
    rintro - hs rfl hw
    rw [debounce_of_held_waiting hs hw]; exact ⟨rfl, rfl⟩
  case bounceHeldDue =>
    rintro - hs rfl hd
    rw [debounce_of_held_due hs hd]; exact ⟨rfl, rfl⟩

/-! ## Polls on a clock that advances by one at each of them (42_debounce.md R154) -/

/-- The environment answers the next `n` polls with the level low and the readings `start + k`, `start + k + 1`, and so on. -/
def Environment.LowFrom (e : Environment) (start : Word) (k n : Nat) : Prop :=
  ∃ pins times, e.pinSamples = List.replicate n false ++ pins ∧
    e.clockReadings = (List.range' k n).map (fun i => start + BitVec.ofNat 32 i) ++ times

section
variable {b : Button} {s : State} {start : Word} {k n : Nat}

theorem pollResult_of_lowFrom (h : s.env.LowFrom start k (n + 1)) :
    pollResult b s = debounce s.config false (start + BitVec.ofNat 32 k) (s.button b) := by
  obtain ⟨pins, times, hpins, htimes⟩ := h
  rw [pollResult, Environment.pinLevel_cons hpins, Environment.clockNow_cons (e := s.env.afterPin) htimes]

/-- At `start + k` a level that differs since `start` has done so for `k` milliseconds, while `DEBOUNCE_MS` is no less. -/
theorem elapsed_since_start (hd : s.config.debounceMs.toNat = k + n)
    (hsince : (s.button b).differsSince (start + BitVec.ofNat 32 k) = start) :
    (start + BitVec.ofNat 32 k - (s.button b).differsSince (start + BitVec.ofNat 32 k)).toNat = k := by
  have := s.config.debounceMs.isLt
  rw [hsince, toNat_add_ofNat_sub_self start (by omega)]

theorem afterPoll_lowFrom (h : s.env.LowFrom start k (n + 1)) : (afterPoll b s).env.LowFrom start (k + 1) n := by
  obtain ⟨pins, times, hpins, htimes⟩ := h
  rw [afterPoll_env]
  exact ⟨pins, times, Environment.afterPin_pinSamples_cons hpins,
    Environment.afterClock_clockReadings_cons (e := s.env.afterPin) htimes⟩

end

/-- A released button whose level is low since `start`, polled at `start + k` and each millisecond from there, is answered at
the poll at `start + DEBOUNCE_MS`, `n` polls later. -/
theorem pollAnswers_of_press (b : Button) (start : Word) (n : Nat) {k : Nat} {s : State}
    (hd : s.config.debounceMs.toNat = k + n) (hs : (s.button b).stableState = true)
    (hsince : (s.button b).differsSince (start + BitVec.ofNat 32 k) = start) (hlow : s.env.LowFrom start k (n + 1)) :
    pollAnswers b (n + 1) s = List.replicate n false ++ [true] := by
  induction n generalizing k s with
  | zero =>
    have helapsed := elapsed_since_start hd hsince
    have hpoll := (pollResult_of_lowFrom (b := b) hlow).trans (debounce_of_press_due hs (by omega))
    rw [pollAnswers_succ, hpoll]; rfl
  | succ n ih =>
    have helapsed := elapsed_since_start hd hsince
    have hpoll := (pollResult_of_lowFrom (b := b) hlow).trans (debounce_of_differs_waiting (by simp [hs]) (by omega))
    rw [hsince] at hpoll
    have hlater : pollAnswers b (n + 1) (afterPoll b s) = List.replicate n false ++ [true] := by
      apply ih (k := k + 1)
      · rw [afterPoll_config]; omega
      · rw [afterPoll_button, hpoll]; exact hs
      · rw [afterPoll_button, hpoll]; rfl
      · exact afterPoll_lowFrom hlow
    rw [pollAnswers_succ, hpoll, hlater]; rfl

/-- Settles O23: the level differs since the first poll. -/
theorem pressIsAnsweredAfterDebounceMs : Obligations.PressIsAnsweredAfterDebounceMs := by
  unfold Obligations.PressIsAnsweredAfterDebounceMs
  intro b s start pins times d hd hs ht hpins htimes
  have hsince : (s.button b).differsSince (start + BitVec.ofNat 32 0) = start := by
    rw [ButtonInput.differsSince_of_stable ht]; exact add_zero start
  rw [List.range_eq_range'] at htimes
  exact pollAnswers_of_press b start d (by omega) hs hsince ⟨pins, times, hpins, htimes⟩

/-- A count modulo `p` goes up by one, or from `p - 1` back to 0. -/
theorem succ_mod_cases {p : Nat} (hp : 1 ≤ p) (k : Nat) :
    (k % p + 1 = p ∧ (k + 1) % p = 0) ∨ (k % p + 1 < p ∧ (k + 1) % p = k % p + 1) := by
  have hlt : k % p < p := Nat.mod_lt k hp
  rw [← Nat.mod_add_mod]
  rcases (Nat.succ_le_of_lt hlt).eq_or_lt with heq | hless
  · exact .inl ⟨heq, by rw [show k % p + 1 = p from heq, Nat.mod_self]⟩
  · exact .inr ⟨hless, Nat.mod_eq_of_lt hless⟩

/-- A held button whose last event is `k mod REPEAT_MS` milliseconds before `start + k`, polled each millisecond from
`start + k + 1`, is answered at the multiples of `REPEAT_MS` after `start`. -/
theorem pollAnswers_of_held (b : Button) (start : Word) (n : Nat) {k : Nat} {s : State} {p : Nat}
    (hp : s.config.repeatMs.toNat = p) (hpos : 1 ≤ p) (hs : (s.button b).stableState = false)
    (hlast : (s.button b).lastEventTime + BitVec.ofNat 32 (k % p) = start + BitVec.ofNat 32 k)
    (hlow : s.env.LowFrom start (k + 1) n) :
    pollAnswers b n s = (List.range' (k + 1) n).map (fun i => i % p == 0) := by
  induction n generalizing k s with
  | zero => rfl
  | succ n ih =>
    have hnow : start + BitVec.ofNat 32 (k + 1) = (s.button b).lastEventTime + BitVec.ofNat 32 (k % p + 1) := by
      rw [BitVec.ofNat_add, BitVec.ofNat_add, ← add_assoc, ← add_assoc, hlast]
    have hage : (start + BitVec.ofNat 32 (k + 1) - (s.button b).lastEventTime).toNat = k % p + 1 := by
      have := s.config.repeatMs.isLt
      have := Nat.mod_lt k hpos
      rw [hnow, toNat_add_ofNat_sub_self _ (by omega)]
    have hlater (hstable : (pollResult b s).1.stableState = false)
        (hevent : (pollResult b s).1.lastEventTime + BitVec.ofNat 32 ((k + 1) % p) = start + BitVec.ofNat 32 (k + 1)) :
        pollAnswers b n (afterPoll b s) = (List.range' (k + 2) n).map (fun i => i % p == 0) := by
      rw [← afterPoll_button] at hstable hevent
      exact ih (by rw [afterPoll_config, hp]) hstable hevent (afterPoll_lowFrom hlow)
    rw [pollAnswers_succ, List.range'_succ, List.map_cons]
    rcases succ_mod_cases hpos k with ⟨hnext, hmod⟩ | ⟨hnext, hmod⟩
    · have hpoll := (pollResult_of_lowFrom (b := b) hlow).trans (debounce_of_held_due hs (by omega))
      rw [hlater (by rw [hpoll]; exact hs) (by rw [hpoll, hmod]; exact add_zero _), hpoll, hmod]; rfl
    · have hpoll := (pollResult_of_lowFrom (b := b) hlow).trans (debounce_of_held_waiting hs (by omega))
      rw [hlater (by rw [hpoll]; exact hs) (by rw [hpoll, hmod]; exact hnow.symm), hpoll, hmod]; rfl

theorem map_range_succ {α : Type} (f : Nat → α) (n : Nat) :
    (List.range n).map (fun k => f (k + 1)) = (List.range' 1 n).map f := by
  rw [List.range'_eq_map_range, List.map_map]
  exact List.map_congr_left fun k _ => congrArg f (Nat.add_comm k 1)

/-- Settles O24: the event at `start` is 0 milliseconds old there. -/
theorem heldButtonRepeatsEveryRepeatMs : Obligations.HeldButtonRepeatsEveryRepeatMs := by
  unfold Obligations.HeldButtonRepeatsEveryRepeatMs
  intro b s start pins times n hpos hs hlast hpins htimes
  rw [map_range_succ fun i => start + BitVec.ofNat 32 i] at htimes
  rw [map_range_succ fun i => i % s.config.repeatMs.toNat == 0]
  exact pollAnswers_of_held b start n rfl hpos hs (by rw [hlast, Nat.zero_mod]) ⟨pins, times, hpins, htimes⟩

end Sys2Proof.Machine
end

section
/-! PROOFS. The Control Loop (family 43_control_loop.md).

What the micro-operations of the wait and of FaultHalted change; runs; the settled obligations O26 to O31 and O36. -/

namespace Sys2Proof.Machine

/-! ## The wait and the advance -/

theorem waitIsOver_iff {elapsed period : Word} : waitIsOver elapsed period = true ↔ period.toNat ≤ elapsed.toNat :=
  decide_eq_true_iff

theorem exec_wchk_of_over {s : State} (h : s.motor.stepPeriodMs.toNat ≤ s.elapsed.toNat) :
    exec .wchk s = .next (s.setSeq SeqCode.ADV) := by
  simp only [exec, execWchk, waitIsOver_iff.mpr h, if_true]

theorem exec_wchk_of_waiting {s : State} (h : s.elapsed.toNat < s.motor.stepPeriodMs.toNat) :
    exec .wchk s = .next (s.setSeq SeqCode.WFAULT) := by
  simp only [exec, execWchk, waitIsOver_iff, Nat.not_le.mpr h, if_false]

/-- Settles O26: WINIT clears the counter, and WCHK compares it with the period. -/
theorem waitStartsAtZeroAndEndsAtThePeriod : Obligations.WaitStartsAtZeroAndEndsAtThePeriod := by
  unfold Obligations.WaitStartsAtZeroAndEndsAtThePeriod
  exact fun s => ⟨rfl, exec_wchk_of_over, exec_wchk_of_waiting⟩

/-- Settles O29: a sleep is one event, and WSLEEP counts it. -/
theorem sleepsRecordAndCount : Obligations.SleepsRecordAndCount := by
  unfold Obligations.SleepsRecordAndCount
  exact fun s => ⟨rfl, rfl⟩

theorem nextStepIndex_eq {i j : StepIndex} (h : j.val = (i.val + 1) % 6) : nextStepIndex i = j := Fin.ext h.symm

/-- Settles O30: ADV writes the next step; that no other instruction does is a clause of the frame (O42). -/
theorem advAloneAdvancesTheStep : Obligations.AdvAloneAdvancesTheStep := by
  unfold Obligations.AdvAloneAdvancesTheStep
  refine ⟨fun s j hj => ?advances, fun i s t hx hne => ?alone, rfl⟩
  case advances =>
    rw [← nextStepIndex_eq hj]
    rfl
  case alone =>
    obtain ⟨-, -, -, -, -, -, hstep, -⟩ := onlyTheNamedInstructionsWriteAnElement i s t hx
    exact not_imp_comm.mp hstep hne

/-! ## The speed buttons -/

/-- WINC and WDEC alike: what `BTNPOLL b` does but for the bus, and on an event the period `w`. -/
theorem pollThenSetPeriod_eq (b : Button) (w : Word) (c : BitVec 5) (s : State) :
    (if (pollButton b s).1 then (pollButton b s).2.setStepPeriod w else (pollButton b s).2).setSeq c =
      { afterPoll b s with
        bus := s.bus
        motor := { s.motor with
          stepPeriodMs := if (afterPoll b s).bus.reqAnswer = some true then w else s.motor.stepPeriodMs }
        seq := c } := by
  have hmotor : (pollButton b s).2.motor = s.motor := by rw [pollButton_snd, State.setButton_motor]
  have hbus : (pollButton b s).2.bus = s.bus := by rw [pollButton_snd, State.setButton_bus]
  simp only [afterPoll, State.answerRequest, State.setBus, Option.some.injEq]
  cases (pollButton b s).1 with
  | true => simp [State.setStepPeriod, State.setSeq, hmotor, hbus]
  | false => simp [State.setSeq, ← hmotor, ← hbus]

theorem speedUp_eq_max (c : Config) (w : Word) :
    ((speedUp c w).toNat : Int) = max (c.stepTimeMinMs.toNat : Int) (w.toNat - c.stepTimeStepMs.toNat) := by
  rw [speedUp_toNat]
  split <;> omega

theorem speedDown_eq_min (c : Config) (w : Word) :
    ((speedDown c w).toNat : Int) = min (c.stepTimeMaxMs.toNat : Int) (w.toNat + c.stepTimeStepMs.toNat) := by
  rw [speedDown_toNat]
  split <;> omega

/-- Settles O27: the poll of the increase button, and `speedUp` on an event. -/
theorem wincShortensThePeriodOnAnEvent : Obligations.WincShortensThePeriodOnAnEvent := by
  unfold Obligations.WincShortensThePeriodOnAnEvent
  exact fun s => ⟨afterPoll .inc s, speedUp s.config s.motor.stepPeriodMs, rfl, speedUp_eq_max _ _,
    congrArg Host.Outcome.next (pollThenSetPeriod_eq .inc _ _ s)⟩

/-- Settles O28: the poll of the decrease button, and `speedDown` on an event. -/
theorem wdecLengthensThePeriodOnAnEvent : Obligations.WdecLengthensThePeriodOnAnEvent := by
  unfold Obligations.WdecLengthensThePeriodOnAnEvent
  exact fun s => ⟨afterPoll .dec s, speedDown s.config s.motor.stepPeriodMs, rfl, speedDown_eq_min _ _,
    congrArg Host.Outcome.next (pollThenSetPeriod_eq .dec _ _ s)⟩

/-! ## Both ends of FaultHalted -/

/-- `s` with everything switched off, at the place `c`, in front of `e`, with the events `es` more: what the
micro-operations that force the safe state leave. -/
def State.switchedOff (s : State) (c : BitVec 5) (e : Environment) (es : List Event) : State :=
  { s with
    motor := { s.motor with currentHighSide := none, currentLowSide := none }
    driver := DriverImage.allOff
    trace := s.trace ++ es
    env := e
    seq := c }

theorem exec_henter (s : State) : exec .henter s = .next (s.switchedOff SeqCode.HPOLL s.env safeOffEvents) := by
  simp only [exec, execHenter, safeOff_eq]
  rfl

theorem exec_hexit (s : State) : exec .hexit s = .next (s.switchedOff SeqCode.CS1 s.env safeOffEvents) := by
  simp only [exec, execHexit, leaveFaultHalted_eq]
  rfl

theorem exec_wfault_switchesOff {s : State} (hf : (faultCheck s).1 = true) :
    exec .wfault s =
      .next (s.switchedOff SeqCode.HENTER s.env.afterPin.afterPin (faultCheckEvents s ++ safeOffEvents)) := by
  rw [exec_wfault_of_fault hf, enterFaultHalted_faultCheck]
  rfl

/-- Settles O31: both are the safe state and a move of `seq`. -/
theorem faultHaltedForcesOffAtBothEnds : Obligations.FaultHaltedForcesOffAtBothEnds := by
  unfold Obligations.FaultHaltedForcesOffAtBothEnds
  rintro s i successor (⟨rfl, rfl⟩ | ⟨rfl, rfl⟩)
  · exact exec_henter s
  · exact exec_hexit s

/-! ## Runs -/

/-- What holds again after every step from a state it holds of lasts along every run, which never stops. -/
theorem core_run_of_progress {P : State → Prop} (hstep : ∀ s, P s → ∃ t, step s = .next t ∧ P t) (n : Nat) {s : State}
    (h : P s) : ∃ t, core.run n s = .next t ∧ P t := by
  induction n generalizing s with
  | zero => exact ⟨s, rfl, h⟩
  | succ n ih =>
    obtain ⟨u, hu, hPu⟩ := hstep s h
    rw [core_run_succ n hu]
    exact ih hPu

/-- No word waits on the bus or the port, and `seq` is legal; a reset may be asked for. -/
structure State.OnProgram (s : State) : Prop where
  no_request : s.bus.req = none
  no_command : s.bus.cmd = none
  legal : s.SeqLegal

/-- A reset goes to CS1 with an idle bus; without one a micro-operation runs, which makes no word wait. -/
theorem State.OnProgram.progress {s : State} (h : s.OnProgram) : ∃ t, step s = .next t ∧ t.OnProgram := by
  cases hr : s.env.rst with
  | true => exact ⟨resetEvent s, by simp [step, hr], rfl, rfl, .cs1, rfl⟩
  | false =>
    have q : s.Quiet := ⟨h.no_request, h.no_command, hr⟩
    obtain ⟨t, hstep, hlegal⟩ := q.progress h.legal
    obtain ⟨i, -, hx⟩ := q.step_inv hstep
    have qt := q.after_exec hx
    exact ⟨t, hstep, qt.no_request, qt.no_command, hlegal⟩

/-- Settles O36: every step from a state on the program leads to one. -/
theorem theProgramNeverStops : Obligations.TheProgramNeverStops := by
  unfold Obligations.TheProgramNeverStops
  intro s hreq hcmd hlegal n
  obtain ⟨t, hrun, ht⟩ := core_run_of_progress (fun _ h => h.progress) n (State.OnProgram.mk hreq hcmd hlegal)
  exact ⟨t, hrun, ht.no_request, ht.no_command, ht.legal⟩

end Sys2Proof.Machine
end

section
/-! PROOFS. The runs of the Control Loop (family 43_control_loop.md).

The micro-operations that change only the wait counter, the draws and the history; one poll tick and the whole wait; the
iterations of Running; a fault in the wait; the settled obligations O32 to O35. -/

namespace Sys2Proof.Machine

/-! ## Micro-operations that wait or sample -/

/-- `s` at the place `c`, with the wait counter at `w`, in front of `e`, with the events `es` more: what sleeps, samples and
polls without a button event leave. -/
def State.waited (s : State) (c : BitVec 5) (w : Word) (e : Environment) (es : List Event) : State :=
  { s with seq := c, elapsed := w, env := e, trace := s.trace ++ es }

theorem State.waited_waited (s : State) (c d : BitVec 5) (v w : Word) (e f : Environment) (es fs : List Event) :
    (s.waited c v e es).waited d w f fs = s.waited d w f (es ++ fs) := by
  simp [State.waited]

theorem State.setSeq_eq_waited (s : State) (c : BitVec 5) : s.setSeq c = s.waited c s.elapsed s.env [] := by
  simp [State.waited, State.setSeq]

/-- Both buttons are released and not in transition. -/
def State.ButtonsIdle (s : State) : Prop := ∀ b, (s.button b).stableState = true ∧ (s.button b).trans = false

/-- Both safety inputs are read: `FCHK` on the next two pin levels. -/
theorem faultCheck_of_pins {s : State} {v x : Bool} {pins : List Bool} (hp : s.env.pinSamples = v :: x :: pins) :
    (faultCheck s).1 = faultCondition v x ∧ faultCheckEvents s = [.rdPin .estop v, .rdPin .fault x] := by
  have hv : s.env.pinLevel .estop = v := Environment.pinLevel_cons hp _
  have hx : s.env.afterPin.pinLevel .fault = x := Environment.pinLevel_cons (Environment.afterPin_pinSamples_cons hp) _
  rw [faultCheck_fst, faultCheckEvents, hv, hx]
  exact ⟨rfl, rfl⟩

/-- A poll that finds an idle button released answers no event and leaves its record as it was (42_debounce.md R151). -/
theorem pollResult_of_idle {s : State} (b : Button) (hidle : s.ButtonsIdle) {pins : List Bool}
    (hp : s.env.pinSamples = true :: pins) : pollResult b s = (s.button b, false) := by
  obtain ⟨hstable, htrans⟩ := hidle b
  rw [pollResult, Environment.pinLevel_cons hp, debounce_of_released _ _ _ hstable,
    ButtonInput.with_trans_self htrans]

theorem afterPin_afterPin_pinSamples {e : Environment} {v x : Bool} {pins : List Bool}
    (hp : e.pinSamples = v :: x :: pins) : e.afterPin.afterPin.pinSamples = pins :=
  Environment.afterPin_pinSamples_cons (Environment.afterPin_pinSamples_cons hp)

theorem afterPin_afterClock_pinSamples {e : Environment} {v : Bool} {pins : List Bool}
    (hp : e.pinSamples = v :: pins) : e.afterPin.afterClock.pinSamples = pins :=
  Environment.afterPin_pinSamples_cons hp

section
variable (s : State) (c : BitVec 5) (w : Word) {e : Environment} (es : List Event) {pins : List Bool}

theorem faultCheck_waited (d : BitVec 5) {v x : Bool} (hp : e.pinSamples = v :: x :: pins) :
    (faultCheck (s.waited c w e es)).1 = faultCondition v x ∧
      (faultCheck (s.waited c w e es)).2.setSeq d =
        s.waited d w e.afterPin.afterPin (es ++ [.rdPin .estop v, .rdPin .fault x]) := by
  obtain ⟨hanswer, hevents⟩ := faultCheck_of_pins (s := s.waited c w e es) hp
  rw [faultCheck_snd, hevents, ← State.waited_waited s c d w w e]
  exact ⟨hanswer, rfl⟩

theorem pollButton_waited (b : Button) (d : BitVec 5) (hidle : s.ButtonsIdle) (hp : e.pinSamples = true :: pins) :
    (pollButton b (s.waited c w e es)).1 = false ∧
      (pollButton b (s.waited c w e es)).2.setSeq d =
        s.waited d w e.afterPin.afterClock (es ++ [.rdPin b.pin true, .rdTime e.afterPin.clockNow]) := by
  have hresult := pollResult_of_idle (s := s.waited c w e es) b hidle hp
  have hevents : pollEvents b (s.waited c w e es) = [.rdPin b.pin true, .rdTime e.afterPin.clockNow] :=
    congrArg (fun v => [Event.rdPin b.pin v, .rdTime e.afterPin.clockNow]) (Environment.pinLevel_cons hp _)
  rw [pollButton_fst, pollButton_snd, hevents, hresult, ← State.waited_waited s c d w w e]
  exact ⟨rfl, by cases b <;> rfl⟩

theorem exec_wfault_waited (hp : e.pinSamples = true :: false :: pins) :
    exec .wfault (s.waited c w e es) =
      .next (s.waited SeqCode.WINC w e.afterPin.afterPin (es ++ [.rdPin .estop true, .rdPin .fault false])) := by
  obtain ⟨hanswer, hstate⟩ := faultCheck_waited s c w es SeqCode.WINC hp
  rw [exec_wfault_of_clear hanswer, hstate]

theorem exec_winc_waited (hidle : s.ButtonsIdle) (hp : e.pinSamples = true :: pins) :
    exec .winc (s.waited c w e es) = .next (s.waited SeqCode.WDEC w e.afterPin.afterClock
      (es ++ [.rdPin .btnInc true, .rdTime e.afterPin.clockNow])) := by
  obtain ⟨hanswer, hstate⟩ := pollButton_waited s c w es .inc SeqCode.WDEC hidle hp
  simp only [exec, execWinc, hanswer]
  exact congrArg _ hstate

theorem exec_wdec_waited (hidle : s.ButtonsIdle) (hp : e.pinSamples = true :: pins) :
    exec .wdec (s.waited c w e es) = .next (s.waited SeqCode.WSLEEP w e.afterPin.afterClock
      (es ++ [.rdPin .btnDec true, .rdTime e.afterPin.clockNow])) := by
  obtain ⟨hanswer, hstate⟩ := pollButton_waited s c w es .dec SeqCode.WSLEEP hidle hp
  simp only [exec, execWdec, hanswer]
  exact congrArg _ hstate

theorem exec_wsleep_waited :
    exec .wsleep (s.waited c w e es) =
      .next (s.waited SeqCode.WCHK (w + s.config.pollMs) e (es ++ [.dlyMs s.config.pollMs])) := by
  rw [← State.waited_waited s c _ w _ e]
  rfl

end

/-! ## Runs of a quiet machine -/

/-- One undisturbed micro-operation as the first step of a run. -/
theorem State.Quiet.run_exec {s t : State} (q : s.Quiet) {i : Instr} (hd : decodeSeq s.seq = .ok i)
    (hx : exec i s = .next t) : t.Quiet ∧ ∀ n, core.run (n + 1) s = core.run n t :=
  ⟨q.after_exec hx, fun n => core_run_succ n ((q.step_eq hd).trans hx)⟩

/-- What every step keeps, of undisturbed states, holds where a run ends. -/
theorem core_run_preserves {P : State → Prop} (hquiet : ∀ s, P s → s.Quiet)
    (hkeep : ∀ s t, P s → step s = .next t → P t) {n : Nat} {s t : State} (h : P s) (hl : s.SeqLegal)
    (hrun : core.run n s = .next t) : P t := by
  obtain ⟨u, hu, hPu⟩ := core_run_keeps hquiet hkeep n h hl
  rw [hrun] at hu
  cases hu
  exact hPu

theorem State.RangeInv.of_run {n : Nat} {s t : State} (h : s.RangeInv) (hl : s.SeqLegal)
    (hrun : core.run n s = .next t) : t.RangeInv :=
  core_run_preserves (fun _ h => h.quiet) stepKeepsTheRangeInvariant h hl hrun

/-! ## One poll tick (43_control_loop.md R172 to R176) -/

/-- The samples of a tick: both safety inputs healthy, both buttons released. -/
def healthyTick : List Bool := [true, false, true, true]

/-- The events of such a tick, with the two clock readings of the polls. -/
def tickEvents (poll : Word) (time : Word × Word) : List Event :=
  [.rdPin .estop true, .rdPin .fault false, .rdPin .btnInc true, .rdTime time.1, .rdPin .btnDec true, .rdTime time.2,
    .dlyMs poll]

/-- A tick of a wait that is not over: five micro-operations, one sleep counted. -/
theorem run_tick {s : State} {w : Word} {e : Environment} {es : List Event} {pins : List Bool}
    (q : (s.waited SeqCode.WCHK w e es).Quiet) (hlt : w.toNat < s.motor.stepPeriodMs.toNat) (hidle : s.ButtonsIdle)
    (hp : e.pinSamples = healthyTick ++ pins) :
    ∃ f time, f.pinSamples = pins ∧ core.run 5 (s.waited SeqCode.WCHK w e es) =
      .next (s.waited SeqCode.WCHK (w + s.config.pollMs) f (es ++ tickEvents s.config.pollMs time)) := by
  have hinc := afterPin_afterPin_pinSamples hp
  have hdec := afterPin_afterClock_pinSamples hinc
  have hwchk : exec .wchk (s.waited SeqCode.WCHK w e es) = .next (s.waited SeqCode.WFAULT w e es) :=
    exec_wchk_of_waiting hlt
  obtain ⟨q1, h1⟩ := q.run_exec rfl hwchk
  obtain ⟨q2, h2⟩ := q1.run_exec rfl (exec_wfault_waited s _ _ _ hp)
  obtain ⟨q3, h3⟩ := q2.run_exec rfl (exec_winc_waited s _ _ _ hidle hinc)
  obtain ⟨q4, h4⟩ := q3.run_exec rfl (exec_wdec_waited s _ _ _ hidle hdec)
  obtain ⟨-, h5⟩ := q4.run_exec rfl (exec_wsleep_waited s _ _ _)
  refine ⟨_, (e.afterPin.afterPin.afterPin.clockNow, e.afterPin.afterPin.afterPin.afterClock.afterPin.clockNow),
    afterPin_afterClock_pinSamples hdec, ?_⟩
  rw [h1, h2, h3, h4, h5, core_run_zero]
  simp only [List.append_assoc]
  rfl

/-! ## The wait (43_control_loop.md R185) -/

/-- The events of several ticks. -/
def waitEvents (poll : Word) (times : List (Word × Word)) : List Event := times.flatMap (tickEvents poll)

theorem waitEvents_cons (poll : Word) (time : Word × Word) (times : List (Word × Word)) :
    waitEvents poll (time :: times) = tickEvents poll time ++ waitEvents poll times := List.flatMap_cons

theorem waitEvents_length (poll : Word) (times : List (Word × Word)) :
    (waitEvents poll times).length = 7 * times.length := by
  induction times with
  | nil => rfl
  | cons time times ih =>
    rw [waitEvents_cons, List.length_append, ih, List.length_cons, Nat.mul_succ, Nat.add_comm]
    rfl

theorem count_dlyMs_tickEvents (poll : Word) (time : Word × Word) : (tickEvents poll time).count (.dlyMs poll) = 1 := by
  simp [tickEvents]

theorem count_dlyMs_waitEvents (poll : Word) (times : List (Word × Word)) :
    (waitEvents poll times).count (.dlyMs poll) = times.length := by
  induction times with
  | nil => rfl
  | cons time times ih =>
    rw [waitEvents_cons, List.count_append, ih, count_dlyMs_tickEvents, List.length_cons, Nat.add_comm]

/-- A tick whose sleep is not cut short takes the poll interval of true time, and so does each that follows. -/
theorem envTimed_waitEvents {lo hi final : Int} (hlo : 0 ≤ lo) (poll : Word) (times : List (Word × Word)) {now : Int}
    (h : EnvTimed lo hi final now (waitEvents poll times)) : now + (times.length * poll.toNat : Nat) ≤ final := by
  induction times generalizing now with
  | nil => rw [List.length_nil, Nat.zero_mul, Nat.cast_zero, add_zero]; exact h
  | cons time times ih =>
    obtain ⟨atInc, hinc, -, atDec, hdec, -, after, -, hsleep, -, hrest⟩ := h
    have hlater := ih hrest
    rw [List.length_cons, Nat.succ_mul]
    omega

/-- The samples of `n` ticks. -/
def healthyTicks (n : Nat) : List Bool := (List.replicate n healthyTick).flatten

theorem healthyTicks_succ (n : Nat) : healthyTicks (n + 1) = healthyTick ++ healthyTicks n := rfl

/-- A counter below the period has room for one more sleep (10_state.md R36, 00_scope.md R7). -/
theorem State.RangeInv.toNat_add_poll {s : State} (h : s.RangeInv) {w : Word}
    (hlt : w.toNat < s.motor.stepPeriodMs.toNat) :
    (w + s.config.pollMs).toNat = w.toNat + s.config.pollMs.toNat := by
  have hmax := h.period_le_max
  have hroom := h.config_ok.max_add_poll
  rw [BitVec.toNat_add, Nat.mod_eq_of_lt (by omega)]

/-- From WCHK, when `n` sleeps are still missing to the period: `n` ticks and the WCHK that ends the wait. -/
theorem run_ticks (n : Nat) {s : State} {w : Word} {e : Environment} {es : List Event} {pins : List Bool}
    (h : (s.waited SeqCode.WCHK w e es).RangeInv) (hidle : s.ButtonsIdle) (hp : e.pinSamples = healthyTicks n ++ pins)
    (hover : s.motor.stepPeriodMs.toNat ≤ w.toNat + n * s.config.pollMs.toNat)
    (hneeded : w.toNat + n * s.config.pollMs.toNat < s.motor.stepPeriodMs.toNat + s.config.pollMs.toNat) :
    ∃ v f, ∃ times : List (Word × Word), core.run (5 * n + 1) (s.waited SeqCode.WCHK w e es) =
        .next (s.waited SeqCode.ADV v f (es ++ waitEvents s.config.pollMs times)) ∧
      v.toNat = w.toNat + n * s.config.pollMs.toNat ∧ f.pinSamples = pins ∧ times.length = n := by
  induction n generalizing w e es with
  | zero =>
    rw [Nat.zero_mul] at hover ⊢
    have hwchk : exec .wchk (s.waited SeqCode.WCHK w e es) = .next (s.waited SeqCode.ADV w e es) :=
      exec_wchk_of_over hover
    refine ⟨w, e, [], ?_, rfl, hp, rfl⟩
    rw [(h.quiet.run_exec rfl hwchk).2 0, waitEvents, List.flatMap_nil, List.append_nil]
    rfl
  | succ n ih =>
    rw [Nat.succ_mul] at hover hneeded
    rw [healthyTicks_succ, List.append_assoc] at hp
    have hlt : w.toNat < s.motor.stepPeriodMs.toNat := by omega
    obtain ⟨f, time, hf, htick⟩ := run_tick h.quiet hlt hidle hp
    have hcount : (w + s.config.pollMs).toNat = w.toNat + s.config.pollMs.toNat := h.toNat_add_poll hlt
    obtain ⟨v, g, times, hrun, hv, hg, hlen⟩ := ih (h.of_run ⟨.wchk, rfl⟩ htick) hf (by omega) (by omega)
    refine ⟨v, g, time :: times, ?_, by rw [Nat.succ_mul]; omega, hg, congrArg (· + 1) hlen⟩
    rw [waitEvents_cons, ← List.append_assoc, ← hrun]
    exact core_run_add 5 (5 * n + 1) htick

/-- The premises of R185: numbers in range, idle buttons, and `n` the ceiling of the period over the poll interval. -/
structure State.WaitsTicks (s : State) (n : Nat) : Prop where
  range : s.RangeInv
  idle : s.ButtonsIdle
  ticks : n = (s.motor.stepPeriodMs.toNat + s.config.pollMs.toNat - 1) / s.config.pollMs.toNat

section
variable {s : State} {n : Nat} {pins : List Bool}

/-- The premises as the statements write them, button by button. -/
theorem State.RangeInv.waitsTicks (h : s.RangeInv)
    (hn : n = (s.motor.stepPeriodMs.toNat + s.config.pollMs.toNat - 1) / s.config.pollMs.toNat)
    (hinc : s.btnInc.stableState = true) (hdec : s.btnDec.stableState = true) (hincTrans : s.btnInc.trans = false)
    (hdecTrans : s.btnDec.trans = false) : s.WaitsTicks n where
  range := h
  idle := fun
    | .inc => ⟨hinc, hincTrans⟩
    | .dec => ⟨hdec, hdecTrans⟩
  ticks := hn

/-- `n` ticks reach the period, and one less does not. -/
theorem State.WaitsTicks.bounds (h : s.WaitsTicks n) :
    s.motor.stepPeriodMs.toNat ≤ n * s.config.pollMs.toNat ∧
      n * s.config.pollMs.toNat < s.motor.stepPeriodMs.toNat + s.config.pollMs.toNat := by
  have hpos := h.range.config_ok.poll_pos
  have hle := Nat.div_mul_le_self (s.motor.stepPeriodMs.toNat + s.config.pollMs.toNat - 1) s.config.pollMs.toNat
  have hlt := Nat.lt_div_mul_add (a := s.motor.stepPeriodMs.toNat + s.config.pollMs.toNat - 1) hpos
  rw [← h.ticks] at hle hlt
  omega

/-- The whole wait, WINIT to the WCHK that ends it. -/
theorem State.WaitsTicks.run_wait (h : s.WaitsTicks n) (hseq : s.seq = SeqCode.WINIT)
    (hp : s.env.pinSamples = healthyTicks n ++ pins) :
    ∃ w e, ∃ times : List (Word × Word), core.run (1 + 5 * n + 1) s =
        .next (s.waited SeqCode.ADV w e (waitEvents s.config.pollMs times)) ∧
      w.toNat = n * s.config.pollMs.toNat ∧ e.pinSamples = pins ∧ times.length = n := by
  obtain ⟨hover, hneeded⟩ := h.bounds
  have hwinit : core.run 1 s = .next (s.waited SeqCode.WCHK 0#32 s.env []) := by
    rw [(h.range.quiet.run_exec (i := .winit) (hseq ▸ rfl) rfl).2 0, State.setSeq_eq_waited]
    rfl
  have hrange := h.range.of_run ⟨.winit, hseq ▸ rfl⟩ hwinit
  rw [← Nat.zero_add (n * _)] at hover hneeded ⊢
  rw [show 1 + 5 * n + 1 = 5 * n + 1 + 1 by omega, core_run_add 1 _ hwinit]
  exact run_ticks n hrange h.idle hp hover hneeded

end

/-- Settles O32: the wait's events and draws are those of its ticks. -/
theorem waitTakesCeilPeriodOverPollTicks : Obligations.WaitTakesCeilPeriodOverPollTicks := by
  unfold Obligations.WaitTakesCeilPeriodOverPollTicks
  intro s n pins hrange hseq hn hinc hdec hincTrans hdecTrans hp
  have hwaits := hrange.waitsTicks hn hinc hdec hincTrans hdecTrans
  obtain ⟨w, e, times, hrun, hw, he, rfl⟩ := hwaits.run_wait hseq hp
  exact ⟨_, waitEvents s.config.pollMs times, hrun, rfl, hw, rfl, rfl, rfl, rfl, he, rfl,
    count_dlyMs_waitEvents _ _, waitEvents_length _ _⟩

/-- Settles O33: `n` sleeps of the poll interval reach the period. -/
theorem waitLastsAtLeastThePeriodInTrueTime : Obligations.WaitLastsAtLeastThePeriodInTrueTime := by
  unfold Obligations.WaitLastsAtLeastThePeriodInTrueTime
  intro s n pins hrange hseq hn hinc hdec hincTrans hdecTrans hp
  have hwaits := hrange.waitsTicks hn hinc hdec hincTrans hdecTrans
  obtain ⟨w, e, times, hrun, -, -, rfl⟩ := hwaits.run_wait hseq hp
  refine ⟨_, waitEvents s.config.pollMs times, hrun, rfl, rfl, fun lo hi now final hlo htimed => ?_⟩
  have hover := hwaits.bounds.1
  have hsleeps := envTimed_waitEvents hlo _ _ htimed
  omega

/-! ## Iterations of Running (43_control_loop.md R186) -/

/-- The premises of the wait last along a run that leaves buttons, period and parameters as they were. -/
theorem State.WaitsTicks.of_run {n m : Nat} {s t : State} (h : s.WaitsTicks n) (hl : s.SeqLegal)
    (hrun : core.run m s = .next t) (hbuttons : ∀ b, t.button b = s.button b)
    (hperiod : t.motor.stepPeriodMs = s.motor.stepPeriodMs) (hconfig : t.config = s.config) : t.WaitsTicks n where
  range := h.range.of_run hl hrun
  idle := fun b => hbuttons b ▸ h.idle b
  ticks := by rw [hperiod, hconfig]; exact h.ticks

/-- The samples of one iteration with a wait of `n` ticks. -/
def iterationPins (n : Nat) : List Bool := [true, false] ++ healthyTicks n

/-- The samples of `k` iterations. -/
def iterationsPins (n k : Nat) : List Bool := (List.replicate k (iterationPins n)).flatten

theorem iterationsPins_succ (n k : Nat) (pins : List Bool) :
    iterationsPins n (k + 1) ++ pins = iterationPins n ++ (iterationsPins n k ++ pins) := List.append_assoc _ _ _

/-- At CS1 in front of step `i`, with waits of `n` ticks and these pin levels to come. -/
structure State.AtStep (s : State) (n : Nat) (i : StepIndex) (period : Word) (pins : List Bool) : Prop where
  waits : s.WaitsTicks n
  seq : s.seq = SeqCode.CS1
  step : s.motor.stepIndex = i
  period : s.motor.stepPeriodMs = period
  pins : s.env.pinSamples = pins

/-- At WINIT after step `i`, whose two phases are recorded, with waits of `n` ticks and these pin levels to come. -/
structure State.AtWait (s : State) (n : Nat) (i : StepIndex) (period : Word) (pins : List Bool) : Prop where
  waits : s.WaitsTicks n
  seq : s.seq = SeqCode.WINIT
  step : s.motor.stepIndex = i
  high : s.motor.currentHighSide = some (commutationTable i).1
  low : s.motor.currentLowSide = some (commutationTable i).2
  period : s.motor.stepPeriodMs = period
  pins : s.env.pinSamples = pins

section
variable {s : State} {n : Nat} {i : StepIndex} {period : Word} {pins : List Bool}

theorem State.AtStep.run_commutateStep (h : s.AtStep n i period ([true, false] ++ pins)) :
    ∃ u, core.run 8 s = .next u ∧ u.AtWait n i period pins := by
  obtain ⟨hwaits, hseq, rfl, rfl, hpins⟩ := h
  have hf : (faultCheck s).1 = false := (faultCheck_of_pins hpins).1
  have hrun := run_commutateStep_of_clear hwaits.range.quiet hseq hf
  rw [commutate_of_clear s _ _ hf] at hrun
  refine ⟨_, hrun, ?_, rfl, rfl, rfl, rfl, rfl, afterPin_afterPin_pinSamples hpins⟩
  exact hwaits.of_run ⟨.cs1, hseq ▸ rfl⟩ hrun (by rintro (_ | _) <;> rfl) rfl rfl

theorem State.AtWait.run_waitAndAdvance (h : s.AtWait n i period (healthyTicks n ++ pins)) :
    ∃ t, core.run (5 * n + 3) s = .next t ∧ t.AtStep n (nextStepIndex i) period pins := by
  obtain ⟨hwaits, hseq, rfl, -, -, rfl, hpins⟩ := h
  obtain ⟨w, e, times, hwait, -, he, -⟩ := hwaits.run_wait hseq hpins
  have hl : s.SeqLegal := ⟨.winit, hseq ▸ rfl⟩
  have hrange := hwaits.range.of_run hl hwait
  have hadv := (hrange.quiet.run_exec (i := .adv) rfl rfl).2 0
  rw [← core_run_add _ _ hwait, show 0 + 1 + (1 + 5 * n + 1) = 5 * n + 3 by omega] at hadv
  exact ⟨_, hadv, hwaits.of_run hl hadv (by rintro (_ | _) <;> rfl) rfl rfl, rfl, rfl, rfl, he⟩

/-- One iteration: the step is driven, its wait passes, and the next step is due. -/
theorem State.AtStep.run_iteration (h : s.AtStep n i period (iterationPins n ++ pins)) :
    ∃ t, core.run (5 * n + 11) s = .next t ∧ t.AtStep n (nextStepIndex i) period pins := by
  rw [iterationPins, List.append_assoc] at h
  obtain ⟨u, hstep, hu⟩ := h.run_commutateStep
  obtain ⟨t, hwait, ht⟩ := hu.run_waitAndAdvance
  exact ⟨t, (core_run_add 8 (5 * n + 3) hstep).trans hwait, ht⟩

/-- `j` iterations, with the pin levels of `k` more to come. -/
theorem State.AtStep.run_iterations (j k : Nat) (h : s.AtStep n i period (iterationsPins n (j + k) ++ pins)) :
    ∃ t, core.run (j * (5 * n + 11)) s = .next t ∧
      t.AtStep n (nextStepIndex^[j] i) period (iterationsPins n k ++ pins) := by
  induction j generalizing s i with
  | zero => rw [Nat.zero_add] at h; exact ⟨s, by rw [Nat.zero_mul]; rfl, h⟩
  | succ j ih =>
    rw [Nat.succ_add, iterationsPins_succ] at h
    obtain ⟨u, hfirst, hu⟩ := h.run_iteration
    obtain ⟨t, hrest, ht⟩ := ih hu
    exact ⟨t, by rw [Nat.succ_mul, core_run_add _ _ hfirst, hrest], ht⟩

end

theorem nextStepIndex_val (i : StepIndex) : (nextStepIndex i).val = (i.val + 1) % 6 := rfl

theorem nextStepIndex_iterate (j : Nat) (i : StepIndex) : (nextStepIndex^[j] i).val = (i.val + j) % 6 := by
  induction j with
  | zero => exact (Nat.mod_eq_of_lt i.isLt).symm
  | succ j ih =>
    rw [Function.iterate_succ_apply', nextStepIndex_val, ih]
    exact Nat.mod_add_mod _ _ _

/-- Settles O34: `j` iterations lead to CS1 in front of step `stepIndex + j mod 6`, and eight micro-operations drive it. -/
theorem iterationsVisitTheStepsInOrder : Obligations.IterationsVisitTheStepsInOrder := by
  unfold Obligations.IterationsVisitTheStepsInOrder
  intro s n k pins hrange hseq hn hinc hdec hincTrans hdecTrans hp
  have hwaits := hrange.waitsTicks hn hinc hdec hincTrans hdecTrans
  have hstart : s.AtStep n s.motor.stepIndex s.motor.stepPeriodMs (iterationsPins n k ++ pins) :=
    ⟨hwaits, hseq, rfl, rfl, hp⟩
  refine ⟨fun j i hj hi => ?driven, ?last⟩
  case driven =>
    obtain ⟨m, rfl⟩ : ∃ m, k = j + (m + 1) := ⟨k - j - 1, by omega⟩
    obtain rfl : nextStepIndex^[j] s.motor.stepIndex = i := Fin.ext ((nextStepIndex_iterate j _).trans hi.symm)
    obtain ⟨t, hrun, ht⟩ := hstart.run_iterations j (m + 1)
    rw [iterationsPins_succ, iterationPins, List.append_assoc] at ht
    obtain ⟨u, hstep, hu⟩ := ht.run_commutateStep
    exact ⟨u, by rw [Nat.add_comm, core_run_add _ _ hrun, hstep], hu.seq, hu.step, hu.high, hu.low⟩
  case last =>
    obtain ⟨t, hrun, ht⟩ := hstart.run_iterations k 0
    exact ⟨t, hrun, ht.seq, by rw [ht.step, nextStepIndex_iterate], ht.period, ht.pins⟩

/-! ## A fault in the wait (60_exceptions.md R226) -/

theorem State.Quiet.of_run {n : Nat} {s t : State} (q : s.Quiet) (hl : s.SeqLegal) (hrun : core.run n s = .next t) :
    t.Quiet := by
  refine core_run_preserves (fun _ q => q) (fun u v q hstep => ?_) q hl hrun
  obtain ⟨i, -, hx⟩ := q.step_inv hstep
  exact q.after_exec hx

/-- The events of polls that all sampled a fault, each followed by a coarse sleep. -/
def faultyPollsEvents (sleep : Word) (faulty : List (Bool × Bool)) : List Event :=
  faulty.flatMap fun q => [.rdPin .estop q.1, .rdPin .fault q.2, .dlyMs sleep]

theorem faultyPollsEvents_cons (sleep : Word) (q : Bool × Bool) (faulty : List (Bool × Bool)) :
    faultyPollsEvents sleep (q :: faulty) =
      [.rdPin .estop q.1, .rdPin .fault q.2, .dlyMs sleep] ++ faultyPollsEvents sleep faulty := List.flatMap_cons

theorem count_dlyMs_faultyPollsEvents (sleep : Word) (faulty : List (Bool × Bool)) :
    (faultyPollsEvents sleep faulty).count (.dlyMs sleep) = faulty.length := by
  induction faulty with
  | nil => rfl
  | cons q faulty ih =>
    rw [faultyPollsEvents_cons, List.count_append, ih, List.length_cons, Nat.add_comm]
    simp

/-- The samples of such polls. -/
def samplePins (samples : List (Bool × Bool)) : List Bool := (samples.map fun q => [q.1, q.2]).flatten

section
variable {s : State} {w : Word} {e : Environment} {es : List Event} {pins : List Bool}

theorem exec_hpoll_waited (c : BitVec 5) {v x : Bool} (hp : e.pinSamples = v :: x :: pins) :
    exec .hpoll (s.waited c w e es) =
      .next (s.waited (if faultCondition v x then SeqCode.HSLEEP else SeqCode.HEXIT) w e.afterPin.afterPin
        (es ++ [.rdPin .estop v, .rdPin .fault x])) := by
  obtain ⟨hanswer, hstate⟩ := faultCheck_waited s c w es _ hp
  rw [exec_hpoll, hanswer, hstate]

theorem exec_hsleep_waited (c : BitVec 5) :
    exec .hsleep (s.waited c w e es) =
      .next (s.waited SeqCode.HPOLL w e (es ++ [.dlyMs s.config.faultPollMs])) := by
  rw [← State.waited_waited s c _ w _ e]
  rfl

/-- From HPOLL: the faulty polls with their sleeps, and the clear one that leads to HEXIT. -/
theorem run_faultyPolls (faulty : List (Bool × Bool)) (q : (s.waited SeqCode.HPOLL w e es).Quiet)
    (hfaulty : ∀ p ∈ faulty, p.1 = false ∨ p.2 = true)
    (hp : e.pinSamples = samplePins faulty ++ [true, false] ++ pins) :
    ∃ f, f.pinSamples = pins ∧ core.run (2 * faulty.length + 1) (s.waited SeqCode.HPOLL w e es) =
      .next (s.waited SeqCode.HEXIT w f (es ++ (faultyPollsEvents s.config.faultPollMs faulty ++
        [.rdPin .estop true, .rdPin .fault false]))) := by
  induction faulty generalizing e es with
  | nil =>
    exact ⟨_, afterPin_afterPin_pinSamples hp, (q.run_exec rfl (exec_hpoll_waited _ hp)).2 0⟩
  | cons p faulty ih =>
    obtain ⟨hfirst, hrest⟩ := List.forall_mem_cons.mp hfaulty
    have hpoll := exec_hpoll_waited (s := s) (w := w) (es := es) SeqCode.HPOLL hp
    rw [faultCondition_eq_true.mpr hfirst, if_pos rfl] at hpoll
    obtain ⟨q1, h1⟩ := q.run_exec rfl hpoll
    obtain ⟨q2, h2⟩ := q1.run_exec rfl (exec_hsleep_waited _)
    obtain ⟨f, hf, hrun⟩ := ih q2 hrest (afterPin_afterPin_pinSamples hp)
    refine ⟨f, hf, ?_⟩
    rw [List.length_cons, Nat.mul_succ, Nat.add_right_comm, h1, h2, hrun]
    simp [faultyPollsEvents_cons]

end

/-- The entry into FaultHalted from the wait, in two micro-operations: WFAULT on a faulty sample, and HENTER. -/
theorem run_fault_entry {s : State} (q : s.Quiet) (hseq : s.seq = SeqCode.WFAULT) (hf : (faultCheck s).1 = true) :
    core.run 2 s = .next ((s.switchedOff SeqCode.HPOLL s.env.afterPin.afterPin []).waited SeqCode.HPOLL s.elapsed
      s.env.afterPin.afterPin (faultCheckEvents s ++ safeOffEvents ++ safeOffEvents)) := by
  obtain ⟨q1, h1⟩ := q.run_exec (hseq ▸ rfl) (exec_wfault_switchesOff hf)
  rw [h1, (q1.run_exec rfl (exec_henter _)).2 0]
  simp [State.switchedOff, State.waited, core_run_zero]

theorem count_dlyMs_faultCheckEvents (s : State) (n : Word) : (faultCheckEvents s).count (.dlyMs n) = 0 := by
  simp [faultCheckEvents]

theorem count_dlyMs_safeOffEvents (n : Word) : safeOffEvents.count (.dlyMs n) = 0 := by
  simp [safeOffEvents]

/-- Settles O35: entry, polls and return change only what the safe state, the draws and the history do. -/
theorem faultInTheWaitRecoversAtTheSameStep : Obligations.FaultInTheWaitRecoversAtTheSameStep := by
  unfold Obligations.FaultInTheWaitRecoversAtTheSameStep
  intro s first faulty pins q hseq hfaulty hp
  obtain ⟨hfirst, hrest⟩ := List.forall_mem_cons.mp hfaulty
  have hl : s.SeqLegal := ⟨.wfault, hseq ▸ rfl⟩
  have hentry := run_fault_entry q hseq ((faultCheck_of_pins hp).1.trans (faultCondition_eq_true.mpr hfirst))
  have q1 := q.of_run hl hentry
  obtain ⟨e, he, hpolls⟩ := run_faultyPolls faulty q1 hrest (afterPin_afterPin_pinSamples hp)
  have q2 := q1.of_run ⟨.hpoll, rfl⟩ hpolls
  have hexit := (q2.run_exec rfl (exec_hexit _)).2 0
  rw [← core_run_add _ _ hpolls, ← core_run_add _ _ hentry,
    show 0 + 1 + (2 * faulty.length + 1) + 2 = 2 + 2 * faulty.length + 2 by omega] at hexit
  have hrunning : SeqCode.CS1.getLsbD 4 = false := by decide
  refine ⟨_, hexit, rfl, hrunning, rfl, rfl, rfl, rfl, rfl, rfl, he, ?sleeps⟩
  case sleeps =>
    rw [← List.count_eq_length_filter, ← List.count_eq_length_filter]
    simp [State.switchedOff, State.waited, count_dlyMs_faultCheckEvents, count_dlyMs_safeOffEvents,
      count_dlyMs_faultyPollsEvents]

end Sys2Proof.Machine
end

section
/-! PROOFS. The port commands (family 44_driver_port.md).

What each command does when it is taken from the port, and the table of R207 that says which micro-operation issues which
command; the settled obligations O3, O4, O5, O6 and O43. -/

namespace Sys2Proof.Machine

/-! ## Commands taken from the port (44_driver_port.md R201 to R206) -/

theorem set_get_same {α : Type} (v : PerPhase α) (p : Phase) : v.set p (v.get p) = v := by
  cases p <;> rfl

theorem exec_seths (p : Phase) (on : Bool) (s : State) :
    exec (.seths p.code on) s = .next ((setHs p on s).answerCommand none) := by
  simp [exec, execSeths]

theorem exec_setls {duty : Word} {s : State} (h : duty.toNat ≤ s.config.maxDuty.toNat) (p : Phase) (en : Bool) :
    exec (.setls p.code en duty) s = .next ((setLs p en duty s).answerCommand none) :=
  (execSetls_next_iff s).mpr ⟨p, phaseOfCode_code p, h, rfl⟩

theorem exec_setls_of_duty_above {duty : Word} {s : State} (h : s.config.maxDuty.toNat < duty.toNat) (p : Phase)
    (en : Bool) : exec (.setls p.code en duty) s = .refused (.dutyAboveMax duty) := by
  simp [exec, execSetls, dutyInRange_iff, h]

/-- Settles O3: the command is one event, and an element set to the value it has is left as it is. -/
theorem setHsDrivesOneHighSide : Obligations.SetHsDrivesOneHighSide := by
  unfold Obligations.SetHsDrivesOneHighSide
  exact fun p on s => ⟨exec_seths p on s, rfl, fun h => h ▸ set_get_same s.driver.hsOn p⟩

/-- Settles O4: the command is one event, and the comparison with `MAX_DUTY` decides whether it runs. -/
theorem setLsConfiguresOneLowSide : Obligations.SetLsConfiguresOneLowSide := by
  unfold Obligations.SetLsConfiguresOneLowSide
  exact fun p en duty s => ⟨fun h => exec_setls h p en, fun h => exec_setls_of_duty_above h p en, rfl⟩

/-- Settles O5: a read is one draw and one event, and the image takes no notice of a read. -/
theorem readsAnswerOneDraw : Obligations.ReadsAnswerOneDraw := by
  unfold Obligations.ReadsAnswerOneDraw
  exact fun pin s => ⟨rfl, rfl⟩

/-- Settles O6: a delay is one event, and the image takes no notice of a delay. -/
theorem delaysOnlyRecordTheirLength : Obligations.DelaysOnlyRecordTheirLength := by
  unfold Obligations.DelaysOnlyRecordTheirLength
  exact fun n s => ⟨rfl, rfl, rfl, rfl⟩

/-! ## The table of issued commands (44_driver_port.md R207) -/

/-- The micro-operations that may force the safe state (41_commutation.md R120). -/
def safeOffIssuers : List Instr := [.cs1, .wfault, .henter, .hexit]

/-- The micro-operations that sample the safety inputs (40_safety_monitor.md R110). -/
def faultCheckIssuers : List Instr := [.cs1, .wfault, .hpoll]

/-- The table of R207: in `s` the micro-operation `i` may issue the command of the event, with its operands. -/
def Event.IssuedBy (i : Instr) (s : State) : Event → Prop
  | .setHs p false => i ∈ safeOffIssuers ∨ (i = .cs4 ∧ p ≠ s.targetHigh)
  | .setHs p true => i = .cs6 ∧ p = s.targetHigh
  | .setLs p false d => d = 0#32 ∧ (i ∈ safeOffIssuers ∨ (i = .cs2 ∧ s.motor.currentLowSide = some p))
  | .setLs p true d => i = .cs8 ∧ p = s.targetLow ∧ d = s.motor.pwmLevel
  | .rdPin .estop _ | .rdPin .fault _ => i ∈ faultCheckIssuers
  | .rdPin .btnInc _ => i = .winc
  | .rdPin .btnDec _ => i = .wdec
  | .rdTime _ => i = .winc ∨ i = .wdec
  | .dlyUs n => i ∈ [.cs3, .cs5, .cs7] ∧ n = s.config.deadTimeUs
  | .dlyMs n => (i = .wsleep ∧ n = s.config.pollMs) ∨ (i = .hsleep ∧ n = s.config.faultPollMs)

theorem otherPhases_ne (h : Phase) : (otherPhases h).1 ≠ h ∧ (otherPhases h).2 ≠ h := by
  cases h <;> decide

section
variable {i : Instr} {s : State} {e : Event}

theorem issuedBy_of_mem_safeOffEvents (hi : i ∈ safeOffIssuers) (he : e ∈ safeOffEvents) : e.IssuedBy i s := by
  have hall : ∀ x ∈ safeOffEvents, (∃ p, x = .setHs p false) ∨ ∃ p, x = .setLs p false 0#32 := by simp [safeOffEvents]
  rcases hall e he with ⟨p, rfl⟩ | ⟨p, rfl⟩
  · exact .inl hi
  · exact ⟨rfl, .inl hi⟩

theorem issuedBy_of_mem_faultCheckEvents (hi : i ∈ faultCheckIssuers) (he : e ∈ faultCheckEvents s) :
    e.IssuedBy i s := by
  rcases List.mem_pair.mp he with rfl | rfl
  all_goals exact hi

theorem issuedBy_of_mem_lowSideOffEvents (he : e ∈ lowSideOffEvents s.motor.currentLowSide) : e.IssuedBy .cs2 s := by
  cases hlow : s.motor.currentLowSide with
  | none => rw [hlow] at he; cases he
  | some l =>
    rw [hlow] at he
    obtain rfl := List.mem_singleton.mp he
    exact ⟨rfl, .inr ⟨rfl, hlow⟩⟩

/-- Every event of a micro-operation stands in its row of the table. -/
theorem issuedBy_of_mem_instrEvents {c : BitVec 5} (hc : encode i = .seq c) (he : e ∈ instrEvents i s) :
    e.IssuedBy i s := by
  cases i with
  | cs1 | wfault =>
    rcases List.mem_append.mp he with h | h
    · exact issuedBy_of_mem_faultCheckEvents (by decide) h
    · split at h
      · exact issuedBy_of_mem_safeOffEvents (by decide) h
      · cases h
  | cs2 => exact issuedBy_of_mem_lowSideOffEvents he
  | cs3 | cs5 | cs7 => obtain rfl := List.mem_singleton.mp he; exact ⟨by decide, rfl⟩
  | cs4 =>
    obtain ⟨hfst, hsnd⟩ := otherPhases_ne s.targetHigh
    rcases List.mem_pair.mp he with rfl | rfl
    · exact .inr ⟨rfl, hfst⟩
    · exact .inr ⟨rfl, hsnd⟩
  | cs6 => obtain rfl := List.mem_singleton.mp he; exact ⟨rfl, rfl⟩
  | cs8 => obtain rfl := List.mem_singleton.mp he; exact ⟨rfl, rfl, rfl⟩
  | winit | wchk | adv => cases he
  | winc =>
    rcases List.mem_pair.mp he with rfl | rfl
    · exact rfl
    · exact .inl rfl
  | wdec =>
    rcases List.mem_pair.mp he with rfl | rfl
    · exact rfl
    · exact .inr rfl
  | wsleep => obtain rfl := List.mem_singleton.mp he; exact .inl ⟨rfl, rfl⟩
  | henter | hexit => exact issuedBy_of_mem_safeOffEvents (by decide) he
  | hpoll => exact issuedBy_of_mem_faultCheckEvents (by decide) he
  | hsleep => obtain rfl := List.mem_singleton.mp he; exact .inr ⟨rfl, rfl⟩
  | fchk | safeoff | commutate | btnpoll | seths | setls | rdpin | rdtime | dlyms | dlyus => cases hc

end

/-- Settles O43: the events added are the instruction's, and each clause is a row of the table `Event.IssuedBy`. -/
theorem eachMicroOpIssuesOnlyItsCommands : Obligations.EachMicroOpIssuesOnlyItsCommands := by
  unfold Obligations.EachMicroOpIssuesOnlyItsCommands
  intro i c s t es hc hx hes
  obtain ⟨htrace, -⟩ := exec_follows hx
  obtain rfl : es = instrEvents i s := List.append_cancel_left (hes.symm.trans htrace)
  have issued {e : Event} (he : e ∈ instrEvents i s) : e.IssuedBy i s := issuedBy_of_mem_instrEvents hc he
  exact ⟨fun _ h => issued h, fun _ h => issued h, fun _ _ h => issued h, fun _ _ h => issued h,
    fun _ h => h.elim issued issued, fun _ h => issued h, fun _ h => issued h, fun _ h => issued h,
    fun _ h => issued h, fun _ h => issued h⟩

end Sys2Proof.Machine
end

section
/-! PROOFS. The reset event (family 70_reset_and_hazards.md): the settled obligation O2. -/

namespace Sys2Proof.Machine

/-- Whatever word waits and whatever `seq` holds, a reset request is served first (70_reset_and_hazards.md R250, log 9). -/
theorem step_of_reset {s : State} (hr : s.env.rst = true) : step s = .next (resetEvent s) := by
  rw [step, if_pos hr]

/-- Settles O2: the step is the reset event, and the state written out is `resetEvent s` evaluated. -/
theorem resetEventPutsEveryElementToItsResetValue : Obligations.ResetEventPutsEveryElementToItsResetValue := by
  unfold Obligations.ResetEventPutsEveryElementToItsResetValue
  intro s hr
  exact step_of_reset hr

end Sys2Proof.Machine
end
